-- ==== Sys2Proof/Word.lean ====
section
/-! DEFINITION. The word types of the WB482 and the four-fold record "one value per chain".

Bit vectors stand only for what the manual treats as bits: the bytes and 16-bit fields of exchange memory, the
registers, the slot counter, the step counter, raw sensor codes. Powers, temperatures, currents and counts are
`Int` and `Nat`, as the manual's arithmetic forms its products without loss. -/

namespace Sys2Proof

/-- One byte of exchange memory. -/
abbrev Byte := BitVec 8

/-- A 16-bit field: a slot number, a register, a capture index. -/
abbrev Half := BitVec 16

/-- The 32-bit step counter. -/
abbrev Stamp := BitVec 32

/-- A chain index, 0 to 3. -/
abbrev Chain := Fin 4

/-- One value per chain. -/
structure PerChain (α : Type) where
  c0 : α
  c1 : α
  c2 : α
  c3 : α
  deriving DecidableEq, Repr

/-- The value of one chain. -/
def PerChain.get {α : Type} (v : PerChain α) (c : Chain) : α :=
  match c with
  | 0 => v.c0
  | 1 => v.c1
  | 2 => v.c2
  | 3 => v.c3

/-- The four values given by a rule on the chain index. -/
def PerChain.ofFn {α : Type} (f : Chain → α) : PerChain α :=
  ⟨f 0, f 1, f 2, f 3⟩

/-- The same value for every chain. -/
def PerChain.fill {α : Type} (a : α) : PerChain α :=
  ⟨a, a, a, a⟩

/-- Every chain's value rewritten. -/
def PerChain.mapIdx {α β : Type} (f : Chain → α → β) (v : PerChain α) : PerChain β :=
  PerChain.ofFn fun c => f c (v.get c)

/-- One chain's value replaced. -/
def PerChain.set {α : Type} (v : PerChain α) (c : Chain) (a : α) : PerChain α :=
  PerChain.ofFn fun d => if d = c then a else v.get d

/-- The four values in chain order. -/
def PerChain.toList {α : Type} (v : PerChain α) : List α :=
  [v.c0, v.c1, v.c2, v.c3]

/-- Every element of a vector rewritten, index at hand. -/
def vmapIdx {α β : Type} {n : Nat} (f : Fin n → α → β) (v : Vector α n) : Vector β n :=
  Vector.ofFn fun i => f i v[i]

/-- The manual's clamp(x, lo, hi). -/
def clamp (x lo hi : Int) : Int :=
  if x < lo then lo else if hi < x then hi else x

/-- "ceil(a / b)" for positive b. Lean's `/` on `Int` is floor division for a positive divisor, the manual's "div". -/
def ceilDiv (a b : Int) : Int :=
  -((-a) / b)

end Sys2Proof
end

