-- ==== Sys2Proof/Syntax.lean ====
section
/-! DEFINITION. The commands of the WB482: one constructor per row of spec/opcode_table.json, with the row's operands.

The rows are of four sorts. (1) Events from outside: resets, strobes, transfer completions, burst completions, port
transactions. (2) The events of the common 4 ms timebase, one command each, so that the sender of the commands settles
every "either order" of the manual. (3) The inner steps that the manual places inside another event (for example
CONDITION_TRIP inside an evaluation): the command stands for that whole event in exactly the states where it brings
the step about (log entry 1). (4) The fourteen directives: the command posts the directive at the cursor and prompts a
scan (log entry 2). -/

namespace Sys2Proof

/-- Which of the two held resets a RESET_RELEASE ends (R168): the supplies coming into range, or the rising edge of
RESET_N. -/
inductive ResetSource where
  | supplies
  | resetN
  deriving DecidableEq, Repr

/-- What the converter reads from its two internal sources at a step (R129): the zero as a signed code -512 to 511, the
reference as a raw code 0 to 4095. The mode decides which one is measured. -/
structure Measurement where
  zero : BitVec 10
  reference : BitVec 12
  deriving DecidableEq, Repr

/-- The two registers without a behaviour of their own (R184). -/
inductive ReadOnlyRegister where
  | partid
  | gstate
  deriving DecidableEq, Repr

/-- A stretch of a read transaction (R179, R181). `start` is the falling edge of CS_N with the address bytes that
arrived, most significant first, and `count` data bytes; `more` goes on with the read in progress, so that events of
the part may fall between two snapshots. `last` says that CS_N rises after these bytes. -/
inductive ReadPhase where
  | start (address : List Byte) (count : Nat) (last : Bool)
  | more (count : Nat) (last : Bool)
  deriving DecidableEq, Repr

/-- The commands, in the order of the table. -/
inductive Instr where
  | powerOnReset
  | resetN
  | resetRelease (source : ResetSource)
  | slotp
  | slota
  | driveLinkCut (c : Chain)
  | driveLinkCutClear (c : Chain)
  | transferCompletion (ack : Bool)
  | thermalStep
  | transmitWatchExpiry
  | enterStopped (ack : Bool)
  | conditionEvaluation
  | conditionTrip (id : Fin 19)
  | conditionClear (id : Fin 19)
  | scanCompletion (raw : Vector (BitVec 12) 11)
  | settlingEnd (raw : Vector (BitVec 12) 11)
  | initComplete (raw : Vector (BitVec 12) 11)
  | directiveStepEvent (m : Measurement)
  | nudge
  | slotSetup (n : Half) (lengthCode m watch : Byte) (notify : Bool)
  | chainSetup (chain : Byte) (tsoft floor fallback : Half) (notify : Bool)
  | conditionSetup (id : Byte) (trip dwell recovery hold cap : Half) (notify : Bool)
  | supplySetup (budget : Half) (notify : Bool)
  | sensorSetup (channel : Byte) (intercept slope : Half) (notify : Bool)
  | profileLoad (j : Byte) (notify : Bool)
  | profileLoadCompletion
  | profileDrop (j : Byte) (notify : Bool)
  | calibrate (notify : Bool)
  | calibrateCompletion (m : Measurement)
  | selftest (notify : Bool)
  | selftestCompletion (m : Measurement)
  | captureStart (count : Byte) (tags : Vector Byte 8) (decimation : Byte) (threshold : Half) (notify : Bool)
  | captureStop (notify : Bool)
  | releaseLatch (chain : Byte) (notify : Bool)
  | pause (n : Byte) (notify : Bool)
  | pauseCompletion
  | clearPending (notify : Bool)
  /-- `atStart`: a CAPTURE_START was taken earlier at this same instant (R162). -/
  | captureStepEvent (atStart : Bool)
  | burstPreparation
  | burstCompletion
  | statusBoardPublication
  /-- `bytes`: what followed the command byte, the two address bytes first, as whole bytes up to CS_N rising. -/
  | spiWrite (bytes : List Byte)
  | spiQuadWrite (bytes : List Byte)
  | spiRead (phase : ReadPhase)
  | spiQuadRead (phase : ReadPhase)
  | runWritten1
  | runWritten0
  | warmReset
  | ncauseClear (bits : Half)
  | stoppedClear
  | nmask (value : Half)
  | registerWrite (register : ReadOnlyRegister) (value : Half)
  deriving DecidableEq, Repr

end Sys2Proof
end

