-- ==== Sys2Proof/Decode.lean ====
section
/-! DEFINITION. The command a word spells. The WB482 has no instruction decoder: spec/opcode_table.json gives bits to
none of its 52 rows ("fields" empty, nothing fixed), so no word spells a command. The command bytes of a port
transaction (R179) and the kind codes of a directive entry (R149) are read by the Memory Port and the Directive
Processor, in Machine/Port.lean and Machine/Directive.lean. -/

namespace Sys2Proof

/-- The command that a word spells by the table's bits: none, since the table gives no row any. -/
def decodeTableWord (_nbits _w : Nat) : Option Instr := none

end Sys2Proof
end

