-- ==== Sys2Proof/Config.lean ====
section
/-! DEFINITION. The values the manual leaves open: opaque constants, so that no proof can see one. Each is applied to
what it may depend on: the step counter of the event, the slot number, the chain, the channel and its pin's level. -/

namespace Sys2Proof

/-- R17 and R107 give the reason CUT for a junction-over trip and LOCK for a stuck-drive latch that raises the cut
request. Where both begin at one evaluation the manual does not say which raises it. True: the latch (log entry 5). -/
opaque Config.latchRaisesFirst : Stamp → Chain → Bool

/-- The drive-word byte of a fault record whose last acknowledged word is unknown: R190 gives it no value (log
entry 6). -/
opaque Config.unknownWordByte : Stamp → Chain → Byte

/-- Whether the step stamp of a CANCELLED outcome written when a thermal step expires the transmit watch is the step
counter before that step's increase (true) or after it: R18 says "the step counter" and R22 "in the event of that
thermal step" (log entry 7). -/
opaque Config.expiryStampsOldStep : Stamp → Bool

/-- Whether the first SLOTP after an evaluation falls in that evaluation's own instant, by the step counter and N: R17 ends the
SLOTP of that instant otherwise than R8 and R28 end a later one, and no command tells instants apart (log entry 27). -/
opaque Config.slotpAtEvaluation : Stamp → Half → Bool

/-- The raw code of a channel whose pin lies within the 0 to 1.2 V scale, by its level in microvolts: R120 gives the ends
and no step (log entry 34). -/
opaque Config.codeInScale : Fin 11 → Int → BitVec 12

end Sys2Proof
end

