-- ==== Sys2Proof/Machine/State.lean ====
section
/-! DEFINITION. The state of the WB482, block by block, as the table "Functional blocks" of spec/00_scope.md gives it,
and its value right after a power-on reset. Each field's docstring names the rule that gives it. -/

namespace Sys2Proof.Machine

/-! ### Code sets (spec/00_scope.md, "Code sets"; R190) -/

/-- Chain state: OFF 0, ON 1, MUTED 2. -/
inductive ChainState where
  | off
  | on
  | muted
  deriving DecidableEq, Repr

/-- Reason codes 0 to 12, in order. -/
inductive Reason where
  | none
  | requestClamp
  | thermal
  | protection
  | supply
  | attenRange
  | noProfile
  | cut
  | lock
  | driveLink
  | missed
  | governor
  | off
  deriving DecidableEq, Repr

/-- Outcome status codes TAKEN 1 to CANCELLED 5. -/
inductive Status where
  | taken
  | held
  | missed
  | unprepared
  | cancelled
  deriving DecidableEq, Repr

/-- Drive results OK 0, LATE 1, FAILED 2. -/
inductive DriveResult where
  | ok
  | late
  | failed
  deriving DecidableEq, Repr

/-- Governor states INIT 0 to STOPPED 4. -/
inductive GovState where
  | init
  | idle
  | running
  | stopping
  | stopped
  deriving DecidableEq, Repr

/-- Stop reasons: none 0, SLOT_FLOW_LOST 1, SENSORS_LOST 2. -/
inductive StopReason where
  | none
  | slotFlowLost
  | sensorsLost
  deriving DecidableEq, Repr

/-- Condition states CLEAR 0 to LATCHED 4. -/
inductive CondState where
  | clear
  | alert
  | tripped
  | holdoff
  | latched
  deriving DecidableEq, Repr

/-- Notify causes, NCAUSE bits 0 to 5. -/
inductive Cause where
  | ready
  | cond
  | directive
  | capture
  | miss
  | stopped
  deriving DecidableEq, Repr

/-! ### Slot Engine (chapter 1) -/

/-- What an ON chain carries (R10): its decision, its basis for holding (clamped request, clamp mark, profile index,
priority class), and the copies taken from the profile at the grant. -/
structure OnRecord where
  grant : Int
  atten : Nat
  cth : Int
  clamped : Int
  clampMark : Bool
  profile : Nat
  priority : Nat
  current : Nat
  dissipation : Nat
  r : Nat
  k : Nat
  deriving DecidableEq, Repr

/-- What is in force on a chain. OFF and MUTED carry grant NONE, attenuation 0, Cth' NONE and clamped request NONE, and
no profile copies (section 1.2, R92), so they hold nothing else. -/
inductive Force where
  | off
  | on (record : OnRecord)
  | muted
  deriving DecidableEq, Repr

/-- An in-force record. -/
structure InForce where
  force : Force
  reason : Reason
  deriving DecidableEq, Repr

/-- A decided state. A MUTED decision keeps the clamped request and Cth' that were formed before it (R27). -/
inductive Verdict where
  | off
  | on (record : OnRecord)
  | muted (clamped cth : Option Int)
  deriving DecidableEq, Repr

/-- One chain of a prepared slot. -/
structure Decision where
  verdict : Verdict
  reason : Reason
  tj : Int
  deriving DecidableEq, Repr

/-- A prepared slot (R10). -/
structure Prepared where
  n : Half
  status : Status
  missCount : Nat
  budget : Nat
  budgetUsed : Nat
  chains : PerChain Decision
  deriving DecidableEq, Repr

/-- The Slot Engine's state (section 1.2), with the four last ceilings (R46). `justCut` is the model's own field: the
latest evaluation raised the chain's cut request in RUNNING, and no strobe has come since (R17; log entry 27). -/
structure SlotEngine where
  n : Half
  prepared : Option Prepared
  inForce : PerChain InForce
  missCount : Nat
  carriedMiss : Nat
  lastOutcomeMissed : Bool
  lengthCode : Fin 4
  holdLimit : Nat
  watchPeriod : Nat
  watch : Nat
  lastCeiling : PerChain (Option Int)
  justCut : PerChain Bool
  deriving DecidableEq, Repr

/-! ### Chain configuration table and Supply Allocator (R26, R47) -/

/-- A record of the chain configuration table (R26). -/
structure ChainConfig where
  tsoft : Int
  floor : Int
  fallback : Int
  deriving DecidableEq, Repr

/-- The Supply Allocator's two values (R47). -/
structure Supply where
  configured : Nat
  lastBudget : Nat
  deriving DecidableEq, Repr

/-! ### Thermal Estimator (R60, R61) -/

/-- An association (R, k) copied from a profile (R63). -/
structure Assoc where
  r : Nat
  k : Nat
  deriving DecidableEq, Repr

/-- A chain's thermal record (R60). -/
structure ThermalRecord where
  energy : Nat
  assoc : Option Assoc
  rise : Nat
  power : Nat
  tm : Int
  substituted : Bool
  tj : Int
  deriving DecidableEq, Repr

/-- The Thermal Estimator. -/
structure Thermal where
  steps : Stamp
  chains : PerChain ThermalRecord
  deriving DecidableEq, Repr

/-! ### Profile Store (R80) -/

/-- A validated image: R, k and the 25 points of the I and D curves. -/
structure ProfileImage where
  r : Nat
  k : Nat
  currents : Vector Nat 25
  dissipations : Vector Nat 25
  deriving DecidableEq, Repr

/-- The load buffer's content: the copy of a staging image (its index field and its image) and the target slot. -/
structure LoadBuffer where
  target : Fin 16
  index : Nat
  image : ProfileImage
  deriving DecidableEq, Repr

/-- The 16 profile slots and the load buffer. -/
structure ProfileStore where
  slots : Vector (Option ProfileImage) 16
  buffer : Option LoadBuffer
  deriving DecidableEq, Repr

/-! ### Protection Supervisor (R93, R107, R110, R111) -/

/-- An entry of the condition table (R93). -/
structure CondEntry where
  trip : Int
  dwell : Nat
  recovery : Int
  hold : Nat
  cap : Int
  state : CondState
  elapsed : Nat
  deriving DecidableEq, Repr

/-- A fault record (R110), as its retained copy. -/
structure FaultRecord where
  present : Bool
  released : Bool
  condId : Nat
  slot : Half
  stamp : Stamp
  rise : Nat
  tj : Int
  tm : Int
  detector : Nat
  state : ChainState
  reason : Reason
  grant : Option Int
  ackKnown : Bool
  ackWord : Byte
  latchCount : Nat
  deriving DecidableEq, Repr

/-- The Protection Supervisor: the condition table, and per chain a cut request, a retained fault record and a latch
count. -/
structure Supervisor where
  entries : Vector CondEntry 19
  cutRequest : PerChain Bool
  faults : PerChain FaultRecord
  latchCount : PerChain Nat
  deriving DecidableEq, Repr

/-! ### Sensor Unit (R120 to R127) -/

/-- The four modes of section 7.3. -/
inductive SensorMode where
  | scanning
  | calibrating
  | selftesting
  | settling
  deriving DecidableEq, Repr

/-- One channel of the latest-values table (R122). The plausibility of channels 5 to 10 is not tested. -/
structure Reading where
  raw : BitVec 12
  corrected : Nat
  value : Int
  implausible : Bool
  deriving DecidableEq, Repr

/-- A temperature channel's intercept a and slope s (R124). -/
structure ChannelPair where
  intercept : Int
  slope : Nat
  deriving DecidableEq, Repr

/-- The Sensor Unit: mode, settle count, calibration pair, channel pairs, the measurements of a CALIBRATE or SELFTEST so
far, and the latest-values table with its two flags. -/
structure SensorUnit where
  mode : SensorMode
  settleCount : Nat
  offset : Int
  gain : Nat
  pairs : Vector ChannelPair 5
  measurements : List Int
  readings : Vector Reading 11
  valid : Bool
  held : Bool
  deriving DecidableEq, Repr

/-! ### Drive Port (R136) -/

/-- A drive word (section 8.1). -/
structure DriveWord where
  enable : Bool
  atten : Nat
  deriving DecidableEq, Repr

/-- The fate of the current word so far (R136). -/
inductive WordFate where
  | acknowledged
  | outstanding
  | failed
  deriving DecidableEq, Repr

/-- A chain's record in the Drive Port (R136): `waiting` is the pending word, `lastAck` none while unknown. -/
structure DriveRecord where
  waiting : Option DriveWord
  lastAck : Option DriveWord
  current : DriveWord
  fate : WordFate
  failures : Nat
  successes : Nat
  cut : Bool
  mute : Bool
  deriving DecidableEq, Repr

/-- The word in transfer, its attempt, and whether its completion moves its chain's current result: it is still the current
word (R136, R139), and RUN has not been cleared since it started (R146; log entry 29). -/
structure Transfer where
  chain : Chain
  word : DriveWord
  retry : Bool
  reports : Bool
  deriving DecidableEq, Repr

/-- The Drive Port. -/
structure DrivePort where
  chains : PerChain DriveRecord
  transfer : Option Transfer
  deriving DecidableEq, Repr

/-! ### Directive Processor (R151, R156) -/

/-- The kinds that take time, with what is kept of their arguments. -/
inductive ActiveKind where
  | profileLoad (j : Fin 16)
  | calibrate
  | selftest
  | captureStop
  | pause (n : Nat)
  deriving DecidableEq, Repr

/-- The active directive: kind, timer (none for a waiting CAPTURE_STOP) and notify-on-completion flag. -/
structure ActiveDirective where
  kind : ActiveKind
  timer : Option Nat
  notify : Bool
  deriving DecidableEq, Repr

/-- The Directive Processor. -/
structure DirectiveProcessor where
  cursor : BitVec 5
  active : Option ActiveDirective
  deriving DecidableEq, Repr

/-! ### Capture Unit (R186) -/

/-- A capture record (R190). `gap` marks a GAP record. -/
structure CaptureRecord where
  stamp : Stamp
  tag : Byte
  implausible : Bool
  held : Bool
  gap : Bool
  value : Half
  deriving DecidableEq, Repr

/-- The Capture Unit. `startFresh` is the model's own field: a CAPTURE_START has loaded the decimation count and no
capture step event has come since (R162, log entry 9). -/
structure CaptureUnit where
  on : Bool
  sources : List Byte
  decimation : Nat
  threshold : Nat
  count : Nat
  startFresh : Bool
  w : Half
  lost : Nat
  above : Bool
  burst : Option (List CaptureRecord)
  deriving DecidableEq, Repr

/-! ### Governor Control, Memory Port, held resets (R167, R168, R181, R184) -/

/-- Governor Control (R167). -/
structure Governor where
  state : GovState
  run : Bool
  reason : StopReason
  initScans : Nat
  quietSlot : Bool
  quietDrive : Bool
  quietCapture : Bool
  deriving DecidableEq, Repr

/-- A read transaction in progress: single or quad data phase, the address of its next data byte, and the latest block
snapshot, empty before the first (R181). -/
structure ReadTransaction where
  quad : Bool
  next : Half
  block : List Byte
  deriving DecidableEq, Repr

/-- The Memory Port: NCAUSE and NMASK (bits 5-0; the unused bits read 0), the read transaction in progress, and the data
bytes that the latest read command sent on the IO lines. The other registers are views (R184). `incoming` holds the whole
bytes that the transaction in progress has carried since CS_N fell, its command byte first, and is absent while none is in
progress (R179). -/
structure MemoryPort where
  ncause : BitVec 6
  nmask : BitVec 6
  reading : Option ReadTransaction
  sent : List Byte
  incoming : Option (List Byte)
  deriving DecidableEq, Repr

/-- The two ways a reset is held (R168): supplies out of range, RESET_N low. -/
structure ResetPins where
  suppliesLow : Bool
  resetLow : Bool
  deriving DecidableEq, Repr

/-- Exchange memory: the non-zero bytes by rising address. An unlisted address reads 0, its value after a power-on reset
(R183). -/
abbrev Memory := List Host.Cell

/-- The canonical form: strictly rising addresses, no entry equal to what an unlisted address reads as. -/
abbrev Memory.wf (m : Memory) : Prop :=
  m.Pairwise (fun p q => p.1 < q.1) ∧ ∀ p ∈ m, p.2 ≠ 0

/-- The machine. `pending` is the queue of the commands that wait, first in first out: the model's own, not the part's
(log entry 3). -/
structure State where
  slot : SlotEngine
  config : PerChain ChainConfig
  supply : Supply
  thermal : Thermal
  store : ProfileStore
  supervisor : Supervisor
  sensors : SensorUnit
  drive : DrivePort
  directives : DirectiveProcessor
  capture : CaptureUnit
  governor : Governor
  port : MemoryPort
  pins : ResetPins
  xm : Memory
  pending : List Instr
  deriving DecidableEq, Repr

/-- Why the machine stops with a fault. It has no constructor: the manual names no event that stops the part; an access
outside the map reads 0 or is discarded (R178), and an event that cannot come in a state changes nothing (log entry 4). -/
inductive Fault where
  deriving DecidableEq, Repr

/-- Why a command has no meaning. -/
inductive Refusal where
  /-- Raised by `exec` for a row without a meaning; no row is without one. Safe: the run ends. -/
  | notModelled (mnemonic : String)
  deriving DecidableEq, Repr

/-! ### Reset values -/

/-- In force after a reset: MUTED, reason GOVERNOR (R24). -/
def mutedByGovernor : InForce := ⟨.muted, .governor⟩

/-- R24, R46: the Slot Engine after either reset; no chain just cut (log entry 27). -/
def slotAtReset : SlotEngine where
  n := 0
  prepared := none
  inForce := .fill mutedByGovernor
  missCount := 0
  carriedMiss := 0
  lastOutcomeMissed := false
  lengthCode := 0
  holdLimit := 2
  watchPeriod := 5
  watch := 5
  lastCeiling := .fill none
  justCut := .fill false

/-- R26: the defaults of a chain's configuration. -/
def configDefault : ChainConfig := ⟨8000, 40, 6080⟩

/-- R47: both values 3000 mA after either reset. -/
def supplyAtReset : Supply := ⟨3000, 3000⟩

/-- R77, first column. -/
def thermalAtPowerOn : ThermalRecord := ⟨0, none, 0, 0, 6080, true, 6080⟩

/-- R95: the default parameters of an entry, in CLEAR. A parameter that R95 marks with a dash is one the entry does not
use; the model holds 0 there (log entry 10). -/
def condDefault (id : Fin 19) : CondEntry :=
  if id.val = 16 then ⟨3072, 250, 2816, 1250, 72, .clear, 0⟩
  else if id.val = 17 then ⟨3500, 2, 3000, 250, 2000, .clear, 0⟩
  else if id.val = 18 then ⟨3300, 1, 3450, 250, 1500, .clear, 0⟩
  else if id.val % 4 = 0 then ⟨9600, 2, 8320, 250, 0, .clear, 0⟩
  else if id.val % 4 = 1 then ⟨6720, 25, 6080, 250, 80, .clear, 0⟩
  else if id.val % 4 = 2 then ⟨400, 3, 0, 0, 0, .clear, 0⟩
  else ⟨0, 5, 0, 25, 68, .clear, 0⟩

/-- R118: a cleared retained fault record, "its present flag clear and every other field 0". -/
def faultCleared : FaultRecord :=
  ⟨false, false, 0, 0, 0, 0, 0, 0, 0, .off, .none, some 0, false, 0, 0⟩

/-- R118: the Supervisor after a power-on reset. -/
def supervisorAtPowerOn : Supervisor where
  entries := Vector.ofFn condDefault
  cutRequest := .fill false
  faults := .fill faultCleared
  latchCount := .fill 0

/-- R135: a channel reading after either reset (its plausibility flag: log entry 11). -/
def readingAtReset : Reading := ⟨0, 0, 0, false⟩

/-- R135: the default intercept and slope. -/
def channelDefault : ChannelPair := ⟨-2560, 13107⟩

/-- R135: the Sensor Unit after either reset, for a given calibration pair. -/
def sensorsAtReset (offset : Int) (gain : Nat) : SensorUnit where
  mode := .scanning
  settleCount := 0
  offset := offset
  gain := gain
  pairs := Vector.replicate 5 channelDefault
  measurements := []
  readings := Vector.replicate 11 readingAtReset
  valid := false
  held := false

/-- R148: a chain's drive record after either reset. -/
def driveAtReset : DriveRecord :=
  ⟨none, none, ⟨false, 0⟩, .acknowledged, 0, 0, false, true⟩

/-- R186: the Capture Unit after a reset, for a given write index. -/
def captureAtReset (w : Half) : CaptureUnit where
  on := false
  sources := []
  decimation := 1
  threshold := 0
  count := 0
  startFresh := false
  w := w
  lost := 0
  above := false
  burst := none

/-- R167: Governor Control after either reset. -/
def governorAtReset : Governor := ⟨.init, false, .none, 0, false, false, false⟩

/-- R183: exchange memory after a power-on reset, all zero but the header's layout version and the published status
board (R189): last effective budget 3000; for each chain Tj and Tm 6080, last ceiling and in-force grant NONE, MUTED,
GOVERNOR, substitution set. `test_reset_board` shows that the board is the one the publication writes. -/
def xmAtPowerOn : Memory :=
  [(0x0000, 1), (0x004A, 0xB8), (0x004B, 0x0B)] ++
  ([0x00A0, 0x00B0, 0x00C0, 0x00D0].flatMap fun a =>
    [(a + 2, 0xC0), (a + 3, 0x17), (a + 4, 0xC0), (a + 5, 0x17), (a + 9, 0x80), (a + 11, 0x80), (a + 12, 2),
     (a + 13, 11), (a + 14, 1)])

/-- The machine right after a power-on reset that has been released (R168), with no command waiting. -/
def State.reset : State where
  slot := slotAtReset
  config := .fill configDefault
  supply := supplyAtReset
  thermal := ⟨0, .fill thermalAtPowerOn⟩
  store := ⟨Vector.replicate 16 none, none⟩
  supervisor := supervisorAtPowerOn
  sensors := sensorsAtReset 0 4096
  drive := ⟨.fill driveAtReset, none⟩
  directives := ⟨0, none⟩
  capture := captureAtReset 0
  governor := governorAtReset
  port := ⟨0, 0, none, [], none⟩
  pins := ⟨false, false⟩
  xm := xmAtPowerOn
  pending := []

end Sys2Proof.Machine
end

