-- ==== Sys2Proof/Machine/Ops.lean ====
section
/-! DEFINITION. The operations over exchange memory, the fields of the layouts (R190), and the small operations that every
block shares: views of a chain's state, header writes, the reset guard.

Taking an exception has no counterpart: the WB482 has no exception entry; its nearest event, the fault stop, is
`requestStop` in Machine/Governor.lean. -/

namespace Sys2Proof.Machine

/-! ### Exchange memory -/

/-- The byte at an address: what is listed there, 0 where nothing is (R183). -/
def memRead : Memory → Nat → Byte
  | [], _ => 0
  | (k, b) :: m, a => if k = a then b else memRead m a

/-- The cells of consecutive bytes from an address on, zero bytes unlisted. -/
def cellsOf : Nat → List Byte → Memory
  | _, [] => []
  | a, b :: bs => if b = 0 then cellsOf (a + 1) bs else (a, b) :: cellsOf (a + 1) bs

/-- Consecutive bytes written from an address on, as one event. -/
def memStore (m : Memory) (a : Nat) (bs : List Byte) : Memory :=
  m.filter (fun c => decide (c.1 < a)) ++ cellsOf a bs ++ m.filter (fun c => decide (a + bs.length ≤ c.1))

/-- The bytes at `n` consecutive addresses. -/
def memBytes (m : Memory) (a n : Nat) : List Byte :=
  (List.range n).map fun i => memRead m (a + i)

/-- A 16-bit field, least significant byte at the lowest address (R190). -/
def memRead16 (m : Memory) (a : Nat) : Half :=
  memRead m (a + 1) ++ memRead m a

/-- The two bytes of a 16-bit field, least significant first (R190). -/
def le16 (v : Half) : List Byte :=
  [v.extractLsb' 0 8, v.extractLsb' 8 8]

/-- The four bytes of a 32-bit field, least significant first (R190). -/
def le32 (v : Stamp) : List Byte :=
  [v.extractLsb' 0 8, v.extractLsb' 8 8, v.extractLsb' 16 8, v.extractLsb' 24 8]

/-- `n` zero bytes. -/
def zeros (n : Nat) : List Byte :=
  List.replicate n 0

/-- An unsigned count as a byte. -/
def byteOf (n : Nat) : Byte :=
  BitVec.ofNat 8 n

/-- An unsigned quantity as a 16-bit field. -/
def u16 (n : Nat) : Half :=
  BitVec.ofNat 16 n

/-- A signed quantity as a 16-bit field, two's complement (R190). -/
def i16 (x : Int) : Half :=
  BitVec.ofInt 16 x

/-- A power field: NONE holds -32768 (R190). -/
def powerField : Option Int → Half
  | none => 0x8000
  | some p => i16 p

/-- A flag as one bit of a byte. -/
def flagBit (b : Bool) (i : Nat) : Byte :=
  if b then 1 <<< i else 0

/-- A part-side write: consecutive bytes of exchange memory, one event (R182). -/
def partWrite (a : Nat) (bs : List Byte) (s : State) : State :=
  { s with xm := memStore s.xm a bs }

/-! ### Header fields (R190, R182) -/

/-- The header's slot counter mirror, at 0x0002, shows N. -/
def putSlotMirror (s : State) : State :=
  partWrite 0x0002 (le16 s.slot.n) s

/-- The header's last activated slot number, at 0x0004. -/
def putLastActivated (n : Half) (s : State) : State :=
  partWrite 0x0004 (le16 n) s

/-- The header's directive cursor, at 0x0006, shows the cursor. -/
def putCursorMirror (s : State) : State :=
  partWrite 0x0006 [s.directives.cursor.setWidth 8] s

/-- The header's step counter, at 0x0008, shows the step counter. -/
def putStepMirror (s : State) : State :=
  partWrite 0x0008 (le32 s.thermal.steps) s

/-- The header's capture write index and lost count, at 0x000C and 0x000E, show W and the lost count. -/
def putCaptureMirror (s : State) : State :=
  partWrite 0x000C (le16 s.capture.w ++ le16 (u16 s.capture.lost)) s

/-- Rd, the host's word at 0x003C. -/
def readIndex (m : Memory) : Half :=
  memRead16 m 0x003C

/-! ### Codes (spec/00_scope.md, R190) -/

def ChainState.code : ChainState → Byte
  | .off => 0
  | .on => 1
  | .muted => 2

def Reason.code : Reason → Byte
  | .none => 0
  | .requestClamp => 1
  | .thermal => 2
  | .protection => 3
  | .supply => 4
  | .attenRange => 5
  | .noProfile => 6
  | .cut => 7
  | .lock => 8
  | .driveLink => 9
  | .missed => 10
  | .governor => 11
  | .off => 12

def Status.code : Status → Byte
  | .taken => 1
  | .held => 2
  | .missed => 3
  | .unprepared => 4
  | .cancelled => 5

def DriveResult.code : DriveResult → Byte
  | .ok => 0
  | .late => 1
  | .failed => 2

def GovState.code : GovState → Byte
  | .init => 0
  | .idle => 1
  | .running => 2
  | .stopping => 3
  | .stopped => 4

def StopReason.code : StopReason → Byte
  | .none => 0
  | .slotFlowLost => 1
  | .sensorsLost => 2

def CondState.code : CondState → Byte
  | .clear => 0
  | .alert => 1
  | .tripped => 2
  | .holdoff => 3
  | .latched => 4

/-- A drive word as one byte: bit 7 enable, bits 6-0 attenuation (R190). -/
def DriveWord.code (w : DriveWord) : Byte :=
  flagBit w.enable 7 ||| byteOf (w.atten % 128)

/-! ### Views of a chain -/

/-- The state, grant, attenuation, Cth' and clamped request of what is in force: NONE and 0 for OFF and MUTED (section
1.2). -/
def Force.state : Force → ChainState
  | .off => .off
  | .on _ => .on
  | .muted => .muted

def Force.grant : Force → Option Int
  | .on r => some r.grant
  | .off => none
  | .muted => none

def Force.atten : Force → Nat
  | .on r => r.atten
  | .off => 0
  | .muted => 0

def Force.cth : Force → Option Int
  | .on r => some r.cth
  | .off => none
  | .muted => none

def Force.clamped : Force → Option Int
  | .on r => some r.clamped
  | .off => none
  | .muted => none

/-- The supply-current copy; a chain not ON has none and draws 0 mA. -/
def Force.current : Force → Nat
  | .on r => r.current
  | .off => 0
  | .muted => 0

def Verdict.state : Verdict → ChainState
  | .off => .off
  | .on _ => .on
  | .muted _ _ => .muted

def Verdict.grant : Verdict → Option Int
  | .on r => some r.grant
  | .off => none
  | .muted _ _ => none

def Verdict.atten : Verdict → Nat
  | .on r => r.atten
  | .off => 0
  | .muted _ _ => 0

def Verdict.cth : Verdict → Option Int
  | .on r => some r.cth
  | .off => none
  | .muted _ cth => cth

def Verdict.clamped : Verdict → Option Int
  | .on r => some r.clamped
  | .off => none
  | .muted clamped _ => clamped

/-- What a decision puts in force when it takes force (R12): NONE for Cth' and clamped request of OFF and MUTED (R27). -/
def Verdict.toForce : Verdict → Force
  | .off => .off
  | .on r => .on r
  | .muted _ _ => .muted

/-- The chain is ON in force. -/
def chainOn (s : State) (c : Chain) : Bool :=
  (s.slot.inForce.get c).force.state = .on

/-- Some chain is ON in force. -/
def anyChainOn (s : State) : Bool :=
  chainOn s 0 || chainOn s 1 || chainOn s 2 || chainOn s 3

/-- The id 4c + k of a chain's condition entry (R93). -/
def chainEntry (c k : Fin 4) : Fin 19 :=
  ⟨4 * c.val + k.val, by omega⟩

/-- The state of a condition entry. -/
def condState (s : State) (id : Fin 19) : CondState :=
  s.supervisor.entries[id].state

/-- TRIPPED or HOLDOFF: an entry of the THROTTLE, CUT or BUDGET tier acts. -/
def CondState.acting : CondState → Bool
  | .clear => false
  | .alert => false
  | .tripped => true
  | .holdoff => true
  | .latched => false

/-! ### Held resets (R168) -/

/-- A reset is held. -/
def resetHeld (s : State) : Bool :=
  s.pins.suppliesLow || s.pins.resetLow

/-- An event the part takes only while no reset is held (R168). -/
def unlessHeld (f : State → State) (s : State) : State :=
  if resetHeld s then s else f s

end Sys2Proof.Machine
end

