-- ==== Sys2Proof/Machine/Drive.lean ====
section
/-! DEFINITION. The Drive Port (chapter 8): handing over words, the link arbiter, transfer completions, drive results and
the drive-link cut, the MUTE lines. -/

namespace Sys2Proof.Machine

/-! ### The MUTE lines -/

/-- The pending slot decides the chain MUTED. -/
def preparedMuted (s : State) (c : Chain) : Bool :=
  match s.slot.prepared with
  | none => false
  | some p => (p.chains.get c).verdict.state = .muted

/-- Some reason of R144 stands for the chain. -/
def muteReason (s : State) (c : Chain) : Bool :=
  decide (s.governor.state ≠ .running) || s.supervisor.cutRequest.get c || (s.drive.chains.get c).cut ||
    decide ((s.slot.inForce.get c).force.state = .muted) || preparedMuted s c

/-- Every chain's drive record rewritten. -/
def mapDrive (f : Chain → DriveRecord → DriveRecord) (s : State) : State :=
  { s with drive := { s.drive with chains := s.drive.chains.mapIdx f } }

/-- A line is asserted in the event in which a reason begins, and a line asserted stays so (R144). -/
def assertMutes (s : State) : State :=
  mapDrive (fun c r => { r with mute := r.mute || muteReason s c }) s

/-- At an activation in RUNNING a line stays asserted where a reason of R144 stands and is released where none does
(R145). DESIGN CHOICE (log entry 33): where a second prepare turned MUTED into ON and the result is not OK, R145's test
releases the line over the older in-force record, though R145 also says that the module then holds that record's word; the
model follows the test. -/
def settleMutes (s : State) : State :=
  mapDrive (fun c r => { r with mute := muteReason s c }) s

/-! ### The arbiter (R138) -/

/-- The arbiter's pass over the pending words in index order: a word equal to the last acknowledged one is not sent,
unless the chain is drive-link cut; the first other word starts its transfer. -/
def serveWaiting : List Chain → DrivePort → DrivePort
  | [], d => d
  | c :: cs, d =>
    let r := d.chains.get c
    match r.waiting with
    | none => serveWaiting cs d
    | some w =>
      if !r.cut && decide (r.lastAck = some w) then
        serveWaiting cs { d with chains := d.chains.set c { r with waiting := none, fate := .acknowledged } }
      else
        { chains := d.chains.set c { r with waiting := none }
          transfer := some ⟨c, w, false, true⟩ }

/-- The arbiter acts whenever the link is free. -/
def arbitrate (d : DrivePort) : DrivePort :=
  if d.transfer.isSome then d else serveWaiting [0, 1, 2, 3] d

/-! ### Handing over words (R137) -/

/-- A new word placed for a chain: `busy` says that a word of the chain is in transfer. -/
def placeWord (w : DriveWord) (busy : Bool) (r : DriveRecord) : DriveRecord :=
  if !r.cut && !busy && decide (r.lastAck = some w) then
    { r with current := w, waiting := none, fate := .acknowledged }
  else
    { r with current := w, waiting := some w, fate := .outstanding }

/-- A word of the chain is in transfer. -/
def inTransfer (d : DrivePort) (c : Chain) : Bool :=
  match d.transfer with
  | none => false
  | some t => decide (t.chain = c)

/-- The four words of a prepare handed over in one event; the word in transfer is no longer current. -/
def handOver (words : PerChain DriveWord) (d : DrivePort) : DrivePort :=
  arbitrate
    { chains := d.chains.mapIdx fun c r => placeWord (words.get c) (inTransfer d c) r
      transfer := d.transfer.map fun t => { t with reports := false } }

/-- The word of a decision: enabled at its attenuation for ON, (0, 0) for OFF and MUTED (R10, R137). -/
def Verdict.word : Verdict → DriveWord
  | .on r => ⟨true, r.atten⟩
  | .off => ⟨false, 0⟩
  | .muted _ _ => ⟨false, 0⟩

/-! ### Transfer completion (R139, R147) -/

/-- The word in transfer completes. `stopping`: a NACK then drops the word without a retry, and no transfer starts
(R147). Unless STOPPING it completes as R139 gives, with the current result of a chain moved only by a word that reports: not
after RUN was written 0 (R146); a current word dropped in STOPPING has failed (DEDUCED, log entry 17). -/
def completeTransfer (ack stopping : Bool) (d : DrivePort) : DrivePort :=
  match d.transfer with
  | none => d
  | some t =>
    let r := d.chains.get t.chain
    if !ack && !t.retry && !stopping then { d with transfer := some { t with retry := true } }
    else
      let r' :=
        if ack then
          { r with lastAck := some t.word, fate := if t.reports then .acknowledged else r.fate }
        else { r with fate := if t.reports then .failed else r.fate }
      let d' : DrivePort := { chains := d.chains.set t.chain r', transfer := none }
      if stopping then d' else arbitrate d'

/-! ### Drive results (R140 to R143) -/

/-- The drive result that an activation reads from a current result (R140). -/
def WordFate.result : WordFate → DriveResult
  | .acknowledged => .ok
  | .outstanding => .late
  | .failed => .failed

/-- A result moves a chain's counts (R141), its third failure in a row cuts the drive link (R142), its eighth success in
a row while cut clears the cut (R143). -/
def countResult (r : DriveRecord) : DriveRecord :=
  match r.fate.result with
  | .ok =>
    if r.cut then
      if r.successes + 1 = 8 then { r with failures := 0, successes := 0, cut := false }
      else { r with failures := 0, successes := r.successes + 1 }
    else { r with failures := 0 }
  | .late => { r with failures := min 255 (r.failures + 1), successes := 0, cut := r.cut || decide (r.failures + 1 = 3) }
  | .failed => { r with failures := min 255 (r.failures + 1), successes := 0, cut := r.cut || decide (r.failures + 1 = 3) }

/-! ### Leaving RUNNING (R146, R147) -/

/-- Every pending word is discarded; a word in transfer runs on. -/
def discardWaiting (s : State) : State :=
  mapDrive (fun _ r => { r with waiting := none }) s

/-- After RUN is written 0 the current results stay as they stood: a word in transfer runs on without moving one (R146).
DEDUCED (log entry 29): they stay so until a prepare makes new current words, though RUN is set again before. -/
def keepResults (s : State) : State :=
  { s with drive := { s.drive with transfer := s.drive.transfer.map fun t => { t with reports := false } } }

end Sys2Proof.Machine
end

