-- ==== Sys2Proof/Machine/Operands.lean ====
section
/-! DEFINITION. The structures the part reads from exchange memory: intent entries (R1), directive entries (R149), staging
images (R82), each at the byte positions of R190. -/

namespace Sys2Proof.Machine

/-! ### Intents -/

/-- A chain record as the Grant Computer takes it: from an intent entry, or from a held chain's basis (R8, R30), whose
clamp mark it carries. -/
structure ChainRequest where
  active : Bool
  priority : Nat
  profile : Nat
  power : Int
  mark : Bool
  deriving DecidableEq, Repr

/-- An intent entry (R1). -/
structure Intent where
  openTag : Half
  closeTag : Half
  chains : PerChain ChainRequest
  deriving DecidableEq, Repr

/-- The address of the intent entry of a slot number: entry n mod 16. -/
def intentAddr (n : Half) : Nat :=
  0x0200 + 32 * (n.toNat % 16)

/-- Chain c's record of an intent entry: any active flag but 0 requests the chain; a class above 3 is served as 3 (R1). -/
def readChainRequest (m : Memory) (a : Nat) (c : Chain) : ChainRequest where
  active := memRead m (a + 2 + 4 * c.val) ≠ 0
  priority := min 3 ((memRead m (a + 3 + 4 * c.val)).toNat / 32)
  profile := (memRead m (a + 3 + 4 * c.val)).toNat % 32
  power := (memRead16 m (a + 4 + 4 * c.val)).toInt
  mark := false

/-- The intent entry that serves slot n, read whole (R5). -/
def readIntent (m : Memory) (n : Half) : Intent where
  openTag := memRead16 m (intentAddr n)
  closeTag := memRead16 m (intentAddr n + 18)
  chains := .ofFn (readChainRequest m (intentAddr n))

/-! ### Directive entries -/

/-- The address of a directive entry (R149). -/
def entryAddr (e : BitVec 5) : Nat :=
  0x0800 + 32 * e.toNat

/-- An entry's state byte. -/
def entryState (m : Memory) (e : BitVec 5) : Byte :=
  memRead m (entryAddr e)

/-- An entry's kind byte. -/
def entryKind (m : Memory) (e : BitVec 5) : Byte :=
  memRead m (entryAddr e + 1)

/-- An entry's notify-on-completion flag; the other flag bits are not read. -/
def entryNotify (m : Memory) (e : BitVec 5) : Bool :=
  (memRead m (entryAddr e + 2)).getLsbD 0

/-- An entry's 20 argument bytes. -/
def entryArgs (m : Memory) (e : BitVec 5) : List Byte :=
  memBytes m (entryAddr e + 4) 20

/-- A byte-wide argument at an entry offset, read unsigned (R190). -/
def arg8 (args : List Byte) (offset : Nat) : Nat :=
  (args.getD (offset - 4) 0).toNat

/-- A 16-bit argument at an entry offset. -/
def arg16 (args : List Byte) (offset : Nat) : Half :=
  args.getD (offset - 3) 0 ++ args.getD (offset - 4) 0

/-- A 16-bit argument read unsigned. -/
def argNat (args : List Byte) (offset : Nat) : Nat :=
  (arg16 args offset).toNat

/-- A 16-bit argument read as a signed quantity. -/
def argInt (args : List Byte) (offset : Nat) : Int :=
  (arg16 args offset).toInt

/-! ### Staging images -/

/-- The address of a staging image (R82). -/
def stagingAddr (j : Fin 16) : Nat :=
  0x1000 + 128 * j.val

/-- Staging image j copied into the load buffer, target j (R83). -/
def readStaging (m : Memory) (j : Fin 16) : LoadBuffer where
  target := j
  index := (memRead16 m (stagingAddr j)).toNat
  image :=
    { r := (memRead16 m (stagingAddr j + 2)).toNat
      k := (memRead16 m (stagingAddr j + 4)).toNat
      currents := Vector.ofFn fun i : Fin 25 => (memRead16 m (stagingAddr j + 8 + 4 * i.val)).toNat
      dissipations := Vector.ofFn fun i : Fin 25 => (memRead16 m (stagingAddr j + 10 + 4 * i.val)).toNat }

end Sys2Proof.Machine
end

