-- ==== Sys2Proof/Machine/Supply.lean ====
section
/-! DEFINITION. The Supply Allocator (chapter 3): the effective budget, the profile curve lookup it shares with the
thermal ceiling (R32), and the fitting of the candidates. -/

namespace Sys2Proof.Machine

/-! ### Curve lookup (R32) -/

/-- The value V(p) of a curve. -/
def curveAt (v : Vector Nat 25) (p : Int) : Nat :=
  if p ≤ -80 then v.getD 0 0
  else if 112 ≤ p then v.getD 24 0
  else
    let q := (p + 80).toNat
    let lo : Int := v.getD (q / 8) 0
    let hi : Int := v.getD (q / 8 + 1) 0
    (lo + ((hi - lo) * (q % 8 : Nat) + 4) / 8).toNat

/-! ### Effective budget (R49) -/

/-- A budget value that stands in: the entry's, when it acts, else nothing lower. -/
def underBudgetEntry (s : State) (id : Fin 19) (b : Nat) : Nat :=
  if (condState s id).acting then min b s.supervisor.entries[id].cap.toNat else b

/-- B_eff: the smallest of B_cfg and the budget value of each budget condition in TRIPPED or HOLDOFF. -/
def effectiveBudget (s : State) : Nat :=
  underBudgetEntry s 18 (underBudgetEntry s 17 s.supply.configured)

/-- B_eff is formed and becomes the last effective budget (R49). -/
def formBudget (s : State) : State :=
  { s with supply := { s.supply with lastBudget := effectiveBudget s } }

/-! ### Fitting the candidates (R50 to R56) -/

/-- A chain that leaves stage 5 as a candidate for ON (R50), with what stages 7 and 8 still need. -/
structure Candidate where
  chain : Chain
  priority : Nat
  profile : Nat
  clamped : Int
  mark : Bool
  cth : Int
  power : Int
  image : ProfileImage
  deriving DecidableEq, Repr

/-- A chain's current at a power, on its own profile. -/
def currentAt (k : Candidate) (p : Int) : Nat :=
  curveAt k.image.currents p

/-- The power offered to a candidate at a backoff b (R53, R54). -/
def offered (b : Int) (k : Candidate) : Int :=
  max (max (k.power - b) (k.clamped - 127)) (-200)

/-- The current of some candidates, each at the power given to it. -/
def sumAt (p : Candidate → Int) : List Candidate → Nat
  | [] => 0
  | k :: ks => currentAt k (p k) + sumAt p ks

/-- The smallest backoff 2, 4, ..., 96 whose class sum fits the remainder (R53). -/
def searchBackoff (rem : Nat) (ks : List Candidate) : Option Int :=
  ((List.range 48).map fun i : Nat => 2 * (i : Int) + 2).find? fun b => decide (sumAt (offered b) ks ≤ rem)

/-- A candidate with what it is granted: `none` is the decision MUTED, SUPPLY. -/
abbrev Granted := Candidate × Option Int

/-- Every candidate granted the power a rule gives it. -/
def grantAll (p : Candidate → Int) (ks : List Candidate) : List Granted :=
  ks.map fun k => (k, some (p k))

/-- Every candidate muted by the allocator. -/
def muteAll (ks : List Candidate) : List Granted :=
  ks.map fun k => (k, none)

/-- The failing class, highest chain index first (R53, R55): whole at its candidates if it fits, else at the smallest
backoff that fits, else without its highest chain. -/
def serveFailing (rem : Nat) : List Candidate → List Granted
  | [] => []
  | k :: ks =>
    if sumAt Candidate.power (k :: ks) ≤ rem then grantAll Candidate.power (k :: ks)
    else match searchBackoff rem (k :: ks) with
      | some b => grantAll (offered b) (k :: ks)
      | none => (k, none) :: serveFailing rem ks

/-- The classes in order (R52), then every class after the failing one muted (R56). -/
def serveClasses (ks : List Candidate) : List Nat → Nat → List Granted
  | [], _ => []
  | q :: qs, rem =>
    let inClass := ks.filter fun k => decide (k.priority = q)
    if sumAt Candidate.power inClass ≤ rem then
      grantAll Candidate.power inClass ++ serveClasses ks qs (rem - sumAt Candidate.power inClass)
    else serveFailing rem inClass.reverse ++ muteAll (ks.filter fun k => decide (q < k.priority))

/-- The allocation of a budget to the candidates, given in chain order (R51, R52). -/
def allocate (budget : Nat) (ks : List Candidate) : List Granted :=
  if sumAt Candidate.power ks ≤ budget then grantAll Candidate.power ks
  else serveClasses ks [0, 1, 2, 3] budget

/-- The current of the chains left ON, at their grants: the budget used (R57). -/
def usedBy : List Granted → Nat
  | [] => 0
  | (k, some g) :: gs => currentAt k g + usedBy gs
  | (_, none) :: gs => usedBy gs

end Sys2Proof.Machine
end

