-- ==== Sys2Proof/Machine/Grant.lean ====
section
/-! DEFINITION. The Grant Computer (chapter 2): stages 1 to 8 for the four chains of a prepare. -/

namespace Sys2Proof.Machine

/-! ### Stage 1: exclusion -/

/-- Some entry of the chain, 4c + 0 to 4c + 3, is LATCHED. -/
def chainLatched (s : State) (c : Chain) : Bool :=
  condState s (chainEntry c 0) = .latched || condState s (chainEntry c 1) = .latched ||
    condState s (chainEntry c 2) = .latched || condState s (chainEntry c 3) = .latched

/-- The image in the profile slot a chain names; an index above 15 names none (R1, R29). -/
def namedImage (s : State) (j : Nat) : Option ProfileImage :=
  (s.store.slots[j]?).join

/-- The first exclusion of R29 that applies to an active chain. -/
def exclusion (s : State) (c : Chain) (profile : Nat) : Option Reason :=
  if chainLatched s c then some .lock
  else if (condState s (chainEntry c 0)).acting then some .cut
  else if (s.drive.chains.get c).cut then some .driveLink
  else if (namedImage s profile).isNone then some .noProfile
  else none

/-! ### Stage 3: the thermal ceiling -/

/-- S_allow (R34). -/
def allowedTarget (headroom rise k : Int) : Int :=
  clamp (if rise ≤ headroom then rise + ((headroom - rise) * 65536) / k
    else rise - ceilDiv ((rise - headroom) * 65536) k) 0 1048575

/-- Dmax (R35). -/
def dissipationAllowance (target r : Int) : Nat :=
  (min ((target * 1000) / (r * 64)) 65535).toNat

/-- The largest p of -80 to n - 80 whose dissipation fits, if there is one (R36). -/
def largestFit (d : Vector Nat 25) (dmax : Nat) : Nat → Option Int
  | 0 => if curveAt d (-80) ≤ dmax then some (-80) else none
  | n + 1 => if curveAt d ((n + 1 : Nat) - 80) ≤ dmax then some ((n + 1 : Nat) - 80) else largestFit d dmax n

/-- Cth (R36). -/
def thermalCeiling (d : Vector Nat 25) (dmax : Nat) : Option Int :=
  if curveAt d 112 ≤ dmax then some 120 else largestFit d dmax 191

/-- Cth' = max(Cth, F), NONE below every floor (R37). -/
def flooredCeiling (cth : Option Int) (floor : Int) : Int :=
  match cth with
  | none => floor
  | some p => max p floor

/-- The floored ceiling of a chain on an image: from its soft limit, module temperature and rise (R34 to R38). -/
def chainCeiling (s : State) (c : Chain) (image : ProfileImage) : Int :=
  let t := s.thermal.chains.get c
  let cfg := s.config.get c
  flooredCeiling
    (thermalCeiling image.dissipations
      (dissipationAllowance (allowedTarget (cfg.tsoft - t.tm) t.rise image.k) image.r))
    cfg.floor

/-! ### Stages 4 and 5: caps, candidate, attenuation range -/

/-- A power under the cap of a THROTTLE entry, when it acts (R40). -/
def underCap (s : State) (id : Fin 19) (p : Int) : Int :=
  if (condState s id).acting then min p s.supervisor.entries[id].cap else p

/-- C = min(Req', Cth', each cap in force) (R41). -/
def candidatePower (s : State) (c : Chain) (clamped cth : Int) : Int :=
  underCap s 16 (underCap s (chainEntry c 3) (underCap s (chainEntry c 1) (min clamped cth)))

/-- What stages 1 to 5 make of a chain: decided, with its Cth' where stage 3 formed it, or a candidate for ON. -/
inductive Screened where
  | decided (verdict : Verdict) (reason : Reason) (ceiling : Option Int)
  | candidate (k : Candidate)
  deriving DecidableEq, Repr

/-- Stages 2 to 5 of an active chain that no exclusion stops, on its image. -/
def screenActive (s : State) (c : Chain) (q : ChainRequest) (image : ProfileImage) : Screened :=
  let clamped := clamp q.power (-200) 112
  let cth := chainCeiling s c image
  let power := candidatePower s c clamped cth
  if 127 < clamped - power then .decided (.muted (some clamped) (some cth)) .attenRange (some cth)
  else .candidate
    { chain := c
      priority := q.priority
      profile := q.profile
      clamped := clamped
      mark := q.mark || decide (q.power < -200) || decide (112 < q.power)
      cth := cth
      power := power
      image := image }

/-- Stages 1 to 5 (R27). -/
def screen (s : State) (c : Chain) (q : ChainRequest) : Screened :=
  if !q.active then .decided .off .off none
  else match exclusion s c q.profile with
    | some why => .decided (.muted none none) why none
    | none =>
      match namedImage s q.profile with
      | none => .decided (.muted none none) .noProfile none
      | some image => screenActive s c q image

/-! ### Stages 6 to 8 -/

/-- The candidate that stages 1 to 5 leave, if any. -/
def Screened.toCandidate : Screened → Option Candidate
  | .decided _ _ _ => none
  | .candidate k => some k

/-- What the allocator gave a chain. -/
def grantOf (gs : List Granted) (c : Chain) : Option Int :=
  (gs.find? fun g => decide (g.1.chain = c)).bind Prod.snd

/-- The reason of a chain decided ON (R44). -/
def onReason (k : Candidate) (g : Int) : Reason :=
  if g = k.clamped then (if k.mark then .requestClamp else .none)
  else if g < k.power then .supply
  else if k.power = k.cth then .thermal
  else .protection

/-- What a candidate granted g carries (R43, R27). -/
def onRecord (k : Candidate) (g : Int) : OnRecord where
  grant := g
  atten := (k.clamped - g).toNat
  cth := k.cth
  clamped := k.clamped
  clampMark := k.mark
  profile := k.profile
  priority := k.priority
  current := currentAt k g
  dissipation := curveAt k.image.dissipations g
  r := k.image.r
  k := k.image.k

/-- The decision of a chain from its screening and the allocation; Tj is read whatever stage decides it (R39). -/
def decide8 (gs : List Granted) (tj : Int) : Screened → Decision
  | .decided v why _ => ⟨v, why, tj⟩
  | .candidate k =>
    match grantOf gs k.chain with
    | some g => ⟨.on (onRecord k g), onReason k g, tj⟩
    | none => ⟨.muted (some k.clamped) (some k.cth), .supply, tj⟩

/-- The last ceiling a taken or held prepare leaves (R46). -/
def Screened.ceiling : Screened → Option Int
  | .decided _ _ cth => cth
  | .candidate k => some k.cth

/-- The result of a prepare's computation. -/
structure GrantResult where
  chains : PerChain Decision
  used : Nat
  ceilings : PerChain (Option Int)
  deriving DecidableEq, Repr

/-- The four chains screened. -/
def screenAll (s : State) (qs : PerChain ChainRequest) : PerChain Screened :=
  .ofFn fun c => screen s c (qs.get c)

/-- Stages 1 to 8 for the four chains, in a given effective budget (R27). -/
def computeGrants (s : State) (budget : Nat) (qs : PerChain ChainRequest) : GrantResult :=
  let screened := screenAll s qs
  let gs := allocate budget (screened.toList.filterMap Screened.toCandidate)
  { chains := screened.mapIdx fun c x => decide8 gs (s.thermal.chains.get c).tj x
    used := usedBy gs
    ceilings := screened.mapIdx fun _ x => x.ceiling }

/-- A slot muted for misses: every chain MUTED, MISSED; the per-chain stages do not run (R9, R46). -/
def mutedForMisses (s : State) : GrantResult where
  chains := .ofFn fun c => ⟨.muted none none, .missed, (s.thermal.chains.get c).tj⟩
  used := 0
  ceilings := .fill none

/-- The chain record of a held slot, from the in-force record (R8, R30): a chain OFF or MUTED in force enters not active,
whatever has muted it. -/
def heldRequest (f : InForce) : ChainRequest :=
  match f.force with
  | .on r => ⟨true, r.priority, r.profile, r.clamped, r.clampMark⟩
  | .off => ⟨false, 0, 0, 0, false⟩
  | .muted => ⟨false, 0, 0, 0, false⟩

end Sys2Proof.Machine
end

