-- ==== Sys2Proof/Machine/Flags.lean ====
section
/-! DEFINITION. The notify causes and NOTIFY_N (R185). -/

namespace Sys2Proof.Machine

/-- The NCAUSE bit of a cause (R184). -/
def Cause.mask : Cause → BitVec 6
  | .ready => 1
  | .cond => 2
  | .directive => 4
  | .capture => 8
  | .miss => 16
  | .stopped => 32

/-- A cause is set; setting a set cause changes nothing (R185). -/
def setCause (k : Cause) (s : State) : State :=
  { s with port := { s.port with ncause := s.port.ncause ||| k.mask } }

/-- A cause is set where a condition holds. -/
def setCauseIf (b : Bool) (k : Cause) (s : State) : State :=
  if b then setCause k s else s

/-- The causes whose bits are 1 are cleared (R184). -/
def clearCauses (bits : BitVec 6) (s : State) : State :=
  { s with port := { s.port with ncause := s.port.ncause &&& ~~~bits } }

/-- The cause stands. -/
def causeSet (k : Cause) (s : State) : Bool :=
  s.port.ncause &&& k.mask ≠ 0

/-- NOTIFY_N is driven low: some enabled cause is set (R185). -/
def notifyAsserted (s : State) : Bool :=
  s.port.ncause &&& s.port.nmask ≠ 0

end Sys2Proof.Machine
end

