-- ==== Sys2Proof/Machine/Layouts.lean ====
section
/-! DEFINITION. The structures the part writes into exchange memory: outcome entries, fault records, capture records, the
status board, each with the byte layout of R190 and its part-side write (R182). -/

namespace Sys2Proof.Machine

/-! ### Outcome entries (R2) -/

/-- One chain of an outcome. -/
structure OutcomeChain where
  state : ChainState
  reason : Reason
  grant : Option Int
  atten : Nat
  result : DriveResult
  cth : Option Int
  tj : Int
  clamped : Option Int
  deriving DecidableEq, Repr

/-- An outcome (R2). -/
structure SlotOutcome where
  tag : Half
  status : Status
  missCount : Nat
  stamp : Stamp
  budget : Nat
  budgetUsed : Nat
  chains : PerChain OutcomeChain
  deriving DecidableEq, Repr

/-- The 12 bytes of a chain of an outcome (R190). -/
def outcomeChainBytes (o : OutcomeChain) : List Byte :=
  [o.state.code, o.reason.code] ++ le16 (powerField o.grant) ++ [byteOf o.atten, o.result.code] ++
    le16 (powerField o.cth) ++ le16 (i16 o.tj) ++ le16 (powerField o.clamped)

/-- The 64 bytes of an outcome entry (R190). -/
def outcomeBytes (o : SlotOutcome) : List Byte :=
  le16 o.tag ++ [o.status.code, byteOf o.missCount] ++ le32 o.stamp ++ le16 (u16 o.budget) ++ le16 (u16 o.budgetUsed) ++
    outcomeChainBytes o.chains.c0 ++ outcomeChainBytes o.chains.c1 ++ outcomeChainBytes o.chains.c2 ++
    outcomeChainBytes o.chains.c3 ++ zeros 4

/-- The address of the outcome entry of a slot number: entry n mod 16 (R2). -/
def outcomeAddr (n : Half) : Nat :=
  0x0400 + 64 * (n.toNat % 16)

/-- An outcome is written: the cause MISS is set when it is MISSED and the latest one was not, and the flag follows its
status (R15). -/
def writeOutcome (o : SlotOutcome) (s : State) : State :=
  let s := setCauseIf (o.status = .missed && !s.slot.lastOutcomeMissed) .miss s
  partWrite (outcomeAddr o.tag) (outcomeBytes o)
    { s with slot := { s.slot with lastOutcomeMissed := o.status = .missed } }

/-! ### Fault records (R110) -/

/-- The 64 bytes of a fault record (R190). -/
def faultBytes (f : FaultRecord) : List Byte :=
  [flagBit f.present 0 ||| flagBit f.released 1, byteOf f.condId] ++ le16 f.slot ++ le32 f.stamp ++
    le16 (u16 f.rise) ++ le16 (i16 f.tj) ++ le16 (i16 f.tm) ++ le16 (u16 f.detector) ++ [f.state.code, f.reason.code] ++
    le16 (powerField f.grant) ++ [flagBit f.ackKnown 0, f.ackWord, byteOf f.latchCount] ++ zeros 41

/-- The address of a chain's fault record (R178). -/
def faultAddr (c : Chain) : Nat :=
  0x0C00 + 64 * c.val

/-- A chain's fault record written from the retained copy (R111). -/
def putFault (c : Chain) (s : State) : State :=
  partWrite (faultAddr c) (faultBytes (s.supervisor.faults.get c)) s

/-! ### Capture records (R190) -/

/-- The 8 bytes of a capture record. -/
def captureBytes (r : CaptureRecord) : List Byte :=
  le32 r.stamp ++ [r.tag, flagBit r.implausible 0 ||| flagBit r.held 1 ||| flagBit r.gap 7] ++ le16 r.value

/-- The address of record number w of the capture ring (R187). -/
def ringAddr (w : Half) : Nat :=
  0x2000 + 8 * (w.toNat % 1024)

/-- Records written at W, W + 1 and so on, in order; W ends behind them (R187). -/
def putRecords : List CaptureRecord → State → State
  | [], s => s
  | r :: rs, s =>
    putRecords rs (partWrite (ringAddr s.capture.w) (captureBytes r)
      { s with capture := { s.capture with w := s.capture.w + 1 } })

/-! ### Status board (R189, R190) -/

/-- Sensors ready: the table valid and not held (R126). -/
def sensorsReady (s : State) : Bool :=
  s.sensors.valid && !s.sensors.held

/-- A channel's six bytes. -/
def readingBytes (r : Reading) : List Byte :=
  le16 (r.raw.setWidth 16) ++ le16 (u16 r.corrected) ++ le16 (i16 r.value)

/-- Byte 0x004C: bit ch set while channel ch, 0 to 4, reads implausible. -/
def implausibleBits (s : State) : Byte :=
  flagBit s.sensors.readings[0].implausible 0 ||| flagBit s.sensors.readings[1].implausible 1 |||
    flagBit s.sensors.readings[2].implausible 2 ||| flagBit s.sensors.readings[3].implausible 3 |||
    flagBit s.sensors.readings[4].implausible 4

/-- A chain's sixteen bytes. -/
def boardChainBytes (s : State) (c : Chain) : List Byte :=
  let t := s.thermal.chains.get c
  let f := s.slot.inForce.get c
  le16 (u16 t.rise) ++ le16 (i16 t.tj) ++ le16 (i16 t.tm) ++ le16 (u16 t.power) ++
    le16 (powerField (s.slot.lastCeiling.get c)) ++ le16 (powerField f.force.grant) ++
    [f.force.state.code, f.reason.code, flagBit t.substituted 0 ||| flagBit (s.drive.chains.get c).cut 1, 0]

/-- The 448 bytes of the status board. -/
def boardBytes (s : State) : List Byte :=
  [s.governor.state.code, s.governor.reason.code,
    flagBit (sensorsReady s) 0 ||| flagBit s.sensors.valid 1 ||| flagBit s.sensors.held 2, flagBit s.capture.on 0] ++
  le32 s.thermal.steps ++ le16 s.slot.n ++ le16 (u16 s.supply.lastBudget) ++ [implausibleBits s, 0, 0, 0] ++
  s.sensors.readings.toList.flatMap readingBytes ++ zeros 14 ++
  boardChainBytes s 0 ++ boardChainBytes s 1 ++ boardChainBytes s 2 ++ boardChainBytes s 3 ++
  s.supervisor.entries.toList.map (fun e => e.state.code) ++ zeros 265 ++ le32 s.thermal.steps

/-- The whole status board published as one part-side write (R189). -/
def publishBoard (s : State) : State :=
  partWrite 0x0040 (boardBytes s) s

/-- STATUS_BOARD_PUBLICATION (R189): "At each thermal-step instant, in every governor state". -/
def execStatusBoardPublication (s : State) : Host.Outcome State Fault Refusal :=
  .next (unlessHeld publishBoard s)

end Sys2Proof.Machine
end

