-- ==== Sys2Proof/Machine/Slot.lean ====
section
/-! DEFINITION. The Slot Engine (chapter 1): prepare, activate, cancellation, the muting by a cut request. -/

namespace Sys2Proof.Machine

/-! ### A decision after a cut (R17) -/

/-- A chain's decision in the pending slot after a cut: an ON or OFF becomes MUTED (R17). DESIGN CHOICE (log entry 37): a
decision MUTED for another reason keeps that reason, where R17 also says that a trip and a SLOTP of one instant end with the
reason CUT or LOCK in either order. -/
def cutDecision (why : Reason) (d : Decision) : Decision :=
  match d.verdict with
  | .on r => { d with verdict := .muted (some r.clamped) (some r.cth), reason := why }
  | .off => { d with verdict := .muted none none, reason := why }
  | .muted _ _ => d

/-- The supply current a decision draws. -/
def Verdict.current : Verdict → Nat
  | .on r => r.current
  | .off => 0
  | .muted _ _ => 0

/-- The pending slot after a cut of chain c (R17). -/
def cutPrepared (c : Chain) (why : Reason) (p : Prepared) : Prepared :=
  { p with
    chains := p.chains.set c (cutDecision why (p.chains.get c))
    budgetUsed := p.budgetUsed - (p.chains.get c).verdict.current }

/-! ### Prepare (R5 to R11) -/

/-- The take test: both tags equal N (R5). -/
def taken (n : Half) (e : Intent) : Bool :=
  decide (e.openTag = n) && decide (e.closeTag = n)

/-- The miss count a prepare forms from the carried count (R6). -/
def missCountAt (isTaken : Bool) (carried : Nat) : Nat :=
  if isTaken then 0 else min 255 (carried + 1)

/-- The status of a prepared slot (R7 to R9). -/
def prepareStatus (isTaken : Bool) (miss holdLimit : Nat) : Status :=
  if isTaken then .taken else if miss ≤ holdLimit then .held else .missed

/-- The decisions of a prepare, by its status (R7, R8, R9). -/
def prepareDecisions (s : State) (e : Intent) (budget : Nat) : Status → GrantResult
  | .taken => computeGrants s budget e.chains
  | .held => computeGrants s budget (s.slot.inForce.mapIdx fun _ f => heldRequest f)
  | .missed => mutedForMisses s
  | .unprepared => mutedForMisses s
  | .cancelled => mutedForMisses s

/-- The prepared slot becomes the pending slot, the four last ceilings are set (R46), and one drive word per chain is
handed over in the same event; MUTE lines of chains decided MUTED are asserted (R10). No later SLOTP falls in the instant of
an earlier evaluation, so no chain is just cut any more (log entry 27). -/
def adoptPrepared (p : Prepared) (ceilings : PerChain (Option Int)) (s : State) : State :=
  assertMutes
    { s with
      slot := { s.slot with prepared := some p, missCount := p.missCount, lastCeiling := ceilings, justCut := .fill false }
      drive := handOver (p.chains.mapIdx fun _ d => d.verdict.word) s.drive }

/-- The evaluation of this instant has cut the chain, and its cut request stands (R17; log entry 27). -/
def cutThisInstant (atTrip : Bool) (s : State) (c : Chain) : Bool :=
  s.slot.justCut.get c && s.supervisor.cutRequest.get c && atTrip

/-- One chain of a slot prepared at the instant of a trip that was taken first: the decision ends as it would with the SLOTP
first, an ON or OFF becoming MUTED with the trip's reason, which the in-force record carries (R17). -/
def tripDecided (atTrip : Bool) (s : State) (c : Chain) (p : Prepared) : Prepared :=
  if cutThisInstant atTrip s c then cutPrepared c (s.slot.inForce.get c).reason p else p

/-- The four chains of a slot prepared at the instant of a trip. -/
def tripsDecided (atTrip : Bool) (s : State) (p : Prepared) : Prepared :=
  tripDecided atTrip s 3 (tripDecided atTrip s 2 (tripDecided atTrip s 1 (tripDecided atTrip s 0 p)))

/-- A prepare in RUNNING: the intent entry N mod 16 read whole, the take test, the miss count, the effective budget and
the decisions (R5 to R11); `atTrip` says that an evaluation of this same instant was taken first (R17). -/
def prepare (atTrip : Bool) (s : State) : State :=
  let e := readIntent s.xm s.slot.n
  let isTaken := taken s.slot.n e
  let miss := missCountAt isTaken s.slot.carriedMiss
  let status := prepareStatus isTaken miss s.slot.holdLimit
  let budget := effectiveBudget s
  let result := prepareDecisions s e budget status
  adoptPrepared (tripsDecided atTrip s ⟨s.slot.n, status, miss, budget, result.used, result.chains⟩) result.ceilings
    (formBudget s)

/-! ### Activate (R12 to R16) -/

/-- What is in force on a chain after an activation with a slot pending (R12). -/
def takeForce (old : InForce) (d : Decision) (result : DriveResult) : InForce :=
  match d.verdict with
  | .muted _ _ => ⟨.muted, d.reason⟩
  | .on r => if result = .ok then ⟨.on r, d.reason⟩ else old
  | .off => if result = .ok then ⟨.off, d.reason⟩ else old

/-- m: the slot length in units of 125 us (spec/00_scope.md, "Time"). -/
def multiplier (code : Fin 4) : Nat :=
  2 ^ (3 - code.val)

/-- The energy charge of one chain, with its association (R13, R62, R63). -/
def chargeChain (m : Nat) (f : InForce) (t : ThermalRecord) : ThermalRecord :=
  match f.force with
  | .on r => { t with energy := min 4294967295 (t.energy + r.dissipation * m), assoc := some ⟨r.r, r.k⟩ }
  | .off => t
  | .muted => t

/-- All charges of one activation, one event (R13). -/
def chargeAll (s : State) : State :=
  { s with thermal := { s.thermal with
      chains := s.thermal.chains.mapIdx fun c t => chargeChain (multiplier s.slot.lengthCode) (s.slot.inForce.get c) t } }

/-- A chain of the outcome of an activated slot: the decision, whatever took force (R14). -/
def decidedOutcome (d : Decision) (result : DriveResult) : OutcomeChain :=
  ⟨d.verdict.state, d.reason, d.verdict.grant, d.verdict.atten, result, d.verdict.cth, d.tj, d.verdict.clamped⟩

/-- A chain of the outcome of an orphan activation: what is in force, drive result OK (R16). -/
def inForceOutcome (f : InForce) (tj : Int) : OutcomeChain :=
  ⟨f.force.state, f.reason, f.force.grant, f.force.atten, .ok, f.force.cth, tj, f.force.clamped⟩

/-- The end of every activation in RUNNING: the last activated slot number, the next N with its mirror, the pending slot
cleared, the transmit watch reloaded (R3, R14, R16, R21); no chain is just cut after it (log entry 27). -/
def advanceSlot (s : State) : State :=
  putSlotMirror
    { putLastActivated s.slot.n s with
      slot := { s.slot with
        n := s.slot.n + 1
        prepared := none
        watch := s.slot.watchPeriod
        justCut := .fill false } }

/-- The decisions and drive results of an activation applied: in-force records (R12), counts and cuts (R141). -/
def bringIntoForce (p : Prepared) (s : State) : State :=
  mapDrive (fun _ r => countResult r)
    { s with slot := { s.slot with
        carriedMiss := p.missCount
        inForce := .ofFn fun c =>
          takeForce (s.slot.inForce.get c) (p.chains.get c) (s.drive.chains.get c).fate.result } }

/-- The outcome of an activated slot (R14). -/
def activatedOutcome (p : Prepared) (s : State) : SlotOutcome :=
  ⟨s.slot.n, p.status, p.missCount, s.thermal.steps, p.budget, p.budgetUsed,
    .ofFn fun c => decidedOutcome (p.chains.get c) (s.drive.chains.get c).fate.result⟩

/-- An activation with a slot pending (R12 to R15, R140 to R145). -/
def activatePrepared (p : Prepared) (s : State) : State :=
  settleMutes (advanceSlot (writeOutcome (activatedOutcome p s) (chargeAll (bringIntoForce p s))))

/-- The sum of the supply-current copies of the chains in force ON (R58). -/
def inForceCurrent (s : State) : Nat :=
  (s.slot.inForce.get 0).force.current + (s.slot.inForce.get 1).force.current +
    (s.slot.inForce.get 2).force.current + (s.slot.inForce.get 3).force.current

/-- The outcome of an orphan activation (R16, R58). -/
def orphanOutcome (s : State) : SlotOutcome :=
  ⟨s.slot.n, .unprepared, s.slot.missCount, s.thermal.steps, s.supply.lastBudget, inForceCurrent s,
    .ofFn fun c => inForceOutcome (s.slot.inForce.get c) (s.thermal.chains.get c).tj⟩

/-- An orphan activation (R16); it too releases the lines whose reasons have all ended (R145). -/
def activateOrphan (s : State) : State :=
  settleMutes (advanceSlot (writeOutcome (orphanOutcome s) (chargeAll s)))

/-- An activation in RUNNING. -/
def activate (s : State) : State :=
  match s.slot.prepared with
  | some p => activatePrepared p s
  | none => activateOrphan s

/-! ### Cut requests and cancellation (R17 to R19) -/

/-- The Slot Engine's part of a cut request being raised (R17); in RUNNING the chain is marked as just cut, for a
SLOTP of the same instant (log entry 27). -/
def cutChain (c : Chain) (why : Reason) (s : State) : State :=
  { s with slot := { s.slot with
      inForce := s.slot.inForce.set c ⟨.muted, why⟩
      prepared := s.slot.prepared.map (cutPrepared c why)
      justCut := s.slot.justCut.set c (decide (s.governor.state = .running)) } }

/-- The outcome of a cancelled slot (R18, R58). -/
def cancelledOutcome (p : Prepared) (stamp : Stamp) (s : State) : SlotOutcome :=
  ⟨s.slot.n, .cancelled, p.missCount, stamp, p.budget, 0,
    .ofFn fun c => ⟨.muted, .governor, none, 0, .ok, none, (p.chains.get c).tj, none⟩⟩

/-- A pending slot cancelled: its outcome, and the miss count back at the carried one (R18). -/
def cancelPrepared (stamp : Stamp) (s : State) : State :=
  match s.slot.prepared with
  | none => s
  | some p =>
    let s := writeOutcome (cancelledOutcome p stamp s) s
    { s with slot := { s.slot with prepared := none, missCount := s.slot.carriedMiss } }

/-- Leaving RUNNING: a pending slot is cancelled and every in-force record becomes MUTED, GOVERNOR (R18, R19). -/
def leaveSlots (stamp : Stamp) (s : State) : State :=
  let s := cancelPrepared stamp s
  { s with slot := { s.slot with inForce := .fill mutedByGovernor, justCut := .fill false } }

/-! ### The strobes -/

/-- A strobe is acted on in RUNNING only (R4). -/
def inRunning (f : State → State) (s : State) : State :=
  if s.governor.state = .running then f s else s

/-- Whether this SLOTP falls in the instant of the latest evaluation, which no command says: a free value (log entry 27). -/
def tripAtPrepare (s : State) : Bool :=
  Config.slotpAtEvaluation s.thermal.steps s.slot.n

/-- SLOTP (R5). -/
def execSlotp (s : State) : Host.Outcome State Fault Refusal :=
  .next (unlessHeld (inRunning (prepare (tripAtPrepare s))) s)

/-- SLOTA (R12). -/
def execSlota (s : State) : Host.Outcome State Fault Refusal :=
  .next (unlessHeld (inRunning activate) s)

/-- An activation now would give chain c a drive result that cuts its drive link: the third failure in a row (R142). -/
def wouldCut (s : State) (c : Chain) : Bool :=
  s.slot.prepared.isSome && !(s.drive.chains.get c).cut && (countResult (s.drive.chains.get c)).cut

/-- An activation now would clear chain c's drive-link cut: the eighth success in a row (R143). -/
def wouldClearCut (s : State) (c : Chain) : Bool :=
  s.slot.prepared.isSome && (s.drive.chains.get c).cut && !(countResult (s.drive.chains.get c)).cut

/-- DRIVE_LINK_CUT (R142): the activation that brings chain c's consecutive-failure count to 3, where SLOTA would be
that activation; otherwise the step does not come about (log entry 1). -/
def execDriveLinkCut (c : Chain) (s : State) : Host.Outcome State Fault Refusal :=
  .next (if wouldCut s c then unlessHeld (inRunning activate) s else s)

/-- DRIVE_LINK_CUT_CLEAR (R143): the activation that brings chain c's consecutive-success count to 8, where SLOTA would
be that activation (log entry 1). -/
def execDriveLinkCutClear (c : Chain) (s : State) : Host.Outcome State Fault Refusal :=
  .next (if wouldClearCut s c then unlessHeld (inRunning activate) s else s)

end Sys2Proof.Machine
end

