-- ==== Sys2Proof/Machine/Governor.lean ====
section
/-! DEFINITION. Governor Control (chapter 10): entering RUNNING, RUN writes, the fault stop and its quiet indications, and
the port's register rows that act on the governor. -/

namespace Sys2Proof.Machine

/-- The governor's record rewritten. -/
def mapGovernor (f : Governor → Governor) (s : State) : State :=
  { s with governor := f s.governor }

/-- Entry to RUNNING: the transmit watch is loaded; the lines lose a reason but are released only at an activation
(R20, R171). -/
def enterRunning (s : State) : State :=
  { s with
    governor := { s.governor with state := .running }
    slot := { s.slot with watch := s.slot.watchPeriod } }

/-- The third scan completion in INIT: IDLE, READY set, and on to RUNNING where RUN holds 1 (R169). -/
def leaveInit (s : State) : State :=
  let s := setCause .ready (mapGovernor (fun g => { g with state := .idle }) s)
  if s.governor.run then enterRunning s else s

/-- A scan completion reported to Governor Control (R121, R169). -/
def countScan (s : State) : State :=
  if s.governor.state = .init then
    let s := mapGovernor (fun g => { g with initScans := g.initScans + 1 }) s
    if s.governor.initScans = 3 then leaveInit s else s
  else s

/-! ### Fault stop (R173 to R175) -/

/-- All three quiet indications are raised. -/
def allQuiet (g : Governor) : Bool :=
  g.quietSlot && g.quietDrive && g.quietCapture

/-- When the third quiet indication is raised the governor enters STOPPED and the cause STOPPED is set, in the same
event (R175). -/
def enterStoppedIfQuiet (s : State) : State :=
  if s.governor.state = .stopping ∧ allQuiet s.governor then
    setCause .stopped (mapGovernor (fun g => { g with state := .stopped }) s)
  else s

/-- The governor enters STOPPING: RUN becomes 0 and the stop reason is set (R173). -/
def beginStopping (why : StopReason) (s : State) : State :=
  mapGovernor (fun g => { g with state := .stopping, run := false, reason := why }) s

/-- The Capture Unit's entry work: capture off unless a burst is in flight (R174). -/
def captureAtStop (s : State) : State :=
  { s with capture := { s.capture with on := s.capture.on && s.capture.burst.isSome } }

/-- The indications that are raised in the event of the entry itself: the Slot Engine's; the Drive Port's unless a word is in
transfer; the Capture Unit's unless a burst is in flight (R174). -/
def raiseAtStop (s : State) : State :=
  mapGovernor (fun g => { g with
    quietSlot := true
    quietDrive := s.drive.transfer.isNone
    quietCapture := s.capture.burst.isNone }) s

/-- Entry to STOPPING (R173) with each block's entry work in the same event (R174): the Slot Engine cancels and mutes, the
Drive Port asserts every line and discards every pending word, the Capture Unit turns capture off. -/
def enterStopping (why : StopReason) (stamp : Stamp) (s : State) : State :=
  raiseAtStop (captureAtStop (assertMutes (discardWaiting (leaveSlots stamp (beginStopping why s)))))

/-- A fault stop request: taken in IDLE and RUNNING, dropped elsewhere (R173). -/
def requestStop (why : StopReason) (stamp : Stamp) (s : State) : State :=
  if s.governor.state = .idle ∨ s.governor.state = .running then enterStoppedIfQuiet (enterStopping why stamp s) else s

/-! ### RUN (R170 to R172) -/

/-- RUN written 1 (R170). -/
def writeRun1 (s : State) : State :=
  match s.governor.state with
  | .init => mapGovernor (fun g => { g with run := true }) s
  | .idle => enterRunning (mapGovernor (fun g => { g with run := true }) s)
  | .running => s
  | .stopping => s
  | .stopped => s

/-- RUN written 0 in RUNNING: cancellation and muting, IDLE, every line asserted, every pending word discarded, the
current results kept (R172, R18, R146). DESIGN CHOICE (log entry 32): a cut chain keeps the successes it has counted, as R146 keeps the counts, though
R146 also says that it needs eight OK results after RUN is set again. -/
def leaveRunning (s : State) : State :=
  assertMutes (keepResults (discardWaiting (mapGovernor (fun g => { g with state := .idle, run := false })
    (leaveSlots s.thermal.steps s))))

/-- RUN written 0 (R170). -/
def writeRun0 (s : State) : State :=
  match s.governor.state with
  | .init => mapGovernor (fun g => { g with run := false }) s
  | .idle => s
  | .running => leaveRunning s
  | .stopping => s
  | .stopped => s

/-! ### Clearing the stop (R176) -/

/-- The host's clear of the cause STOPPED leaves STOPPED for IDLE with RUN 0. -/
def clearStop (s : State) : State :=
  if s.governor.state = .stopped then mapGovernor (fun g => { g with state := .idle, run := false }) s else s

/-- A write to NCAUSE: 1 clears that cause; clearing STOPPED in STOPPED moves the governor (R184, R185, R176). -/
def writeNcause (v : Half) (s : State) : State :=
  let s := clearCauses (v.setWidth 6) s
  if v.getLsbD 5 then clearStop s else s

/-- A write to NMASK replaces the enables; its unused bits read 0 (R184). -/
def writeNmask (v : Half) (s : State) : State :=
  { s with port := { s.port with nmask := v.setWidth 6 } }

/-- A transfer completion (R139, R147): in STOPPING it raises the Drive Port's quiet indication, unless no word was in
transfer. -/
def transferCompleted (ack : Bool) (s : State) : State :=
  if s.drive.transfer.isNone then s
  else
    let s := { s with drive := completeTransfer ack (decide (s.governor.state = .stopping)) s.drive }
    if s.governor.state = .stopping then
      enterStoppedIfQuiet (mapGovernor (fun g => { g with quietDrive := true }) s)
    else s

/-- TRANSFER_COMPLETION (R139), with the module's acknowledge; no word in transfer, no completion (log entry 4). -/
def execTransferCompletion (ack : Bool) (s : State) : Host.Outcome State Fault Refusal :=
  .next (unlessHeld (transferCompleted ack) s)

end Sys2Proof.Machine
end

