-- ==== Sys2Proof/Machine/Capture.lean ====
section
/-! DEFINITION. The Capture Unit (section 11.5): bursts prepared, landed with GAP and loss handling, and the threshold
test; the starting and stopping of capture. -/

namespace Sys2Proof.Machine

/-- The Capture Unit's record rewritten. -/
def mapCapture (f : CaptureUnit → CaptureUnit) (s : State) : State :=
  { s with capture := f s.capture }

/-! ### Preparing a burst (R186) -/

/-- The chain of a source tag 16 to 31. -/
def tagChain (tag : Byte) : Chain :=
  ⟨tag.toNat % 4, by omega⟩

/-- The value of a source as its owner holds it (R186). -/
def sourceValue (s : State) (tag : Byte) : Half :=
  if h : tag.toNat < 11 then i16 s.sensors.readings[tag.toNat].value
  else if tag.toNat < 20 then u16 (s.thermal.chains.get (tagChain tag)).rise
  else if tag.toNat < 24 then i16 (s.thermal.chains.get (tagChain tag)).tj
  else if tag.toNat < 28 then powerField (s.slot.lastCeiling.get (tagChain tag))
  else if tag.toNat < 32 then powerField (s.slot.inForce.get (tagChain tag)).force.grant
  else u16 s.supply.lastBudget

/-- The implausible flag of a source: the channel's plausibility, for channels 0 to 4. -/
def sourceImplausible (s : State) (tag : Byte) : Bool :=
  if h : tag.toNat < 5 then s.sensors.readings[tag.toNat].implausible else false

/-- One record of a burst. -/
def sample (s : State) (tag : Byte) : CaptureRecord where
  stamp := s.thermal.steps
  tag := tag
  implausible := sourceImplausible s tag
  held := decide (tag.toNat < 11) && s.sensors.held
  gap := false
  value := sourceValue s tag

/-- A CAPTURE_STOP waits for the burst in flight (R163). -/
def captureStopWaits (s : State) : Bool :=
  match s.directives.active with
  | some a => decide (a.kind = .captureStop)
  | none => false

/-- A burst of one record per source, in list order. None is prepared while a CAPTURE_STOP waits (R163); with a burst
still in flight, which the 20 us of R186 rule out, none is prepared either (log entry 8). -/
def prepareBurst (s : State) : State :=
  if captureStopWaits s || s.capture.burst.isSome then s
  else mapCapture (fun u => { u with burst := some (u.sources.map (sample s)) }) s

/-- The decimation count decreases by one; at 0 a burst is prepared and the count reloaded (R186). -/
def countCapture (s : State) : State :=
  if s.capture.count ≤ 1 then mapCapture (fun u => { u with count := u.decimation }) (prepareBurst s)
  else mapCapture (fun u => { u with count := u.count - 1 }) s

/-- The Capture Unit's step event: it acts with capture on and the governor not STOPPING. With `atStart` the count that a
CAPTURE_START of this same instant has loaded stays as it is (R162). -/
def captureStep (atStart : Bool) (s : State) : State :=
  let fresh := s.capture.startFresh
  let s := mapCapture (fun u => { u with startFresh := false }) s
  if s.capture.on = true ∧ s.governor.state ≠ .stopping then
    if atStart && fresh then s else countCapture s
  else s

/-- CAPTURE_STEP_EVENT (R186). -/
def execCaptureStepEvent (atStart : Bool) (s : State) : Host.Outcome State Fault Refusal :=
  .next (unlessHeld (captureStep atStart) s)

/-- A capture step event now prepares a burst (R186). -/
def burstDue (s : State) : Bool :=
  s.capture.on && decide (s.governor.state ≠ .stopping) && decide (s.capture.count ≤ 1) && !captureStopWaits s &&
    s.capture.burst.isNone

/-- BURST_PREPARATION (R186): the capture step event that brings the decimation count to 0, where CAPTURE_STEP_EVENT
would be that one (log entry 1). -/
def execBurstPreparation (s : State) : Host.Outcome State Fault Refusal :=
  .next (if burstDue s then unlessHeld (captureStep false) s else s)

/-! ### Landing a burst (R187, R188) -/

/-- The fill: records written and not yet read. -/
def ringFill (w rd : Half) : Nat :=
  (w - rd).toNat

/-- A GAP record carrying a lost count, with the step counter of its burst (R187). -/
def gapRecord (stamp : Stamp) (lost : Nat) : CaptureRecord :=
  ⟨stamp, 255, false, false, true, u16 lost⟩

/-- What a burst of records puts into the ring at fill f with a lost count, and the lost count after (R187). -/
def landing (f lost : Nat) (burst : List CaptureRecord) : List CaptureRecord × Nat :=
  if 1024 < f then ([], min 65535 (lost + burst.length))
  else if lost = 0 then (burst.take (1024 - f), min 65535 (burst.drop (1024 - f)).length)
  else if f ≤ 1022 then
    match burst with
    | [] => ([], lost)
    | r :: rs => (gapRecord r.stamp lost :: (r :: rs).take (1023 - f), min 65535 ((r :: rs).drop (1023 - f)).length)
  else ([], min 65535 (lost + burst.length))

/-- The threshold test after the ring write, with the same Rd (R188). -/
def testThreshold (rd : Half) (s : State) : State :=
  let exceeds := decide (s.capture.threshold < ringFill s.capture.w rd)
  mapCapture (fun u => { u with above := exceeds }) (setCauseIf (exceeds && !s.capture.above) .capture s)

/-- A burst lands: the records, W and the lost count as one part-side write, then the threshold test. -/
def landBurst (burst : List CaptureRecord) (s : State) : State :=
  let rd := readIndex s.xm
  let put := landing (ringFill s.capture.w rd) s.capture.lost burst
  testThreshold rd (putCaptureMirror
    (mapCapture (fun u => { u with lost := put.2, burst := none }) (putRecords put.1 s)))

/-! ### Starting and stopping (R161, R163) -/

/-- An accepted CAPTURE_START. -/
def startCapture (sources : List Byte) (decimation threshold : Nat) (s : State) : State :=
  mapCapture (fun u => { u with
    on := true
    sources := sources
    decimation := decimation
    threshold := threshold
    count := decimation
    startFresh := true
    above := false }) s

/-- Capture off; its configuration is kept. -/
def stopCapture (s : State) : State :=
  mapCapture (fun u => { u with on := false }) s

end Sys2Proof.Machine
end

