-- ==== Sys2Proof/Machine/Profile.lean ====
section
/-! DEFINITION. The Profile Store (chapter 5): the copy at the take, validation, the swap, the drop. -/

namespace Sys2Proof.Machine

/-! ### Validation (R85) -/

/-- A fault: the failing point (255 for the header) and the fault kind. -/
structure ImageFault where
  point : Nat
  kind : Nat
  deriving DecidableEq, Repr

/-- Checks 4 to 6 for point i, in order. -/
def pointFault (im : ProfileImage) (i : Nat) : Option ImageFault :=
  if 8000 < im.currents.getD i 0 then some ⟨i, 4⟩
  else if i ≠ 0 ∧ im.currents.getD i 0 < im.currents.getD (i - 1) 0 then some ⟨i, 5⟩
  else if i ≠ 0 ∧ im.dissipations.getD i 0 < im.dissipations.getD (i - 1) 0 then some ⟨i, 6⟩
  else none

/-- The first check that fails: index, R, k, then the points 0 to 24. -/
def imageFault (b : LoadBuffer) : Option ImageFault :=
  if b.index ≠ b.target.val then some ⟨255, 1⟩
  else if b.image.r < 1 ∨ 255 < b.image.r then some ⟨255, 2⟩
  else if b.image.k < 1 ∨ 65535 < b.image.k then some ⟨255, 3⟩
  else (List.range 25).findSome? (pointFault b.image)

/-- A validated image: what every profile slot holds (R80, R86). -/
def ProfileImage.valid (im : ProfileImage) : Bool :=
  decide (1 ≤ im.r) && decide (im.r ≤ 255) && decide (1 ≤ im.k) && decide (im.k ≤ 65535) &&
    ((List.range 25).findSome? (pointFault im)).isNone

/-! ### Load and drop -/

/-- The store's record rewritten. -/
def mapStore (f : ProfileStore → ProfileStore) (s : State) : State :=
  { s with store := f s.store }

/-- The take of a PROFILE_LOAD: staging image j copied into the load buffer (R83). -/
def fillBuffer (j : Fin 16) (s : State) : State :=
  mapStore (fun p => { p with buffer := some (readStaging s.xm j) }) s

/-- The completion of a load: a valid image replaces its target slot whole (R86), a faulty one leaves it (R87); the
buffer is emptied either way. -/
def finishLoad (s : State) : State :=
  match s.store.buffer with
  | none => s
  | some b =>
    match imageFault b with
    | none => mapStore (fun p => { slots := p.slots.set b.target.val (some b.image) b.target.isLt, buffer := none }) s
    | some _ => mapStore (fun p => { p with buffer := none }) s

/-- A slot made absent (R89). -/
def dropProfile (j : Fin 16) (s : State) : State :=
  mapStore (fun p => { p with slots := p.slots.set j.val none j.isLt }) s

end Sys2Proof.Machine
end

