-- ==== Sys2Proof/Machine/Thermal.lean ====
section
/-! DEFINITION. The Thermal Estimator (chapter 4) and the transmit watch at a step (R21, R22). -/

namespace Sys2Proof.Machine

/-- The step power P (R66). -/
def stepPower (energy : Nat) : Nat :=
  min (energy / 32) 65535

/-- The target rise S (R67); 0 without an association. -/
def targetRise (power : Nat) : Option Assoc → Int
  | none => 0
  | some a => min (((power : Int) * a.r * 64 + 500) / 1000) 16383

/-- The rise moved towards its target (R68); 0 without an association (R69). -/
def movedRise (rise : Nat) (target : Int) : Option Assoc → Nat
  | none => 0
  | some a => (clamp ((rise : Int) + ((target - rise) * a.k + 32768) / 65536) 0 16383).toNat

/-- The fallback temperature stands in for the chain's module reading (R70, cases 1 to 3). -/
def substitutes (s : State) (c : Chain) : Bool :=
  !s.sensors.valid || (condState s (chainEntry c 3)).acting || s.sensors.readings[c.val].implausible

/-- The module temperature of a step (R70). -/
def moduleTemperature (s : State) (c : Chain) : Int :=
  if substitutes s c then (s.config.get c).fallback else s.sensors.readings[c.val].value

/-- A chain's record at a step: power, rise, module temperature, junction estimate (R65 to R72). -/
def stepChain (s : State) (c : Chain) (t : ThermalRecord) : ThermalRecord :=
  let p := stepPower t.energy
  let x := movedRise t.rise (targetRise p t.assoc) t.assoc
  let tm := moduleTemperature s c
  { energy := t.energy - 32 * p
    assoc := t.assoc
    rise := x
    power := p
    tm := tm
    substituted := substitutes s c
    tj := tm + x }

/-- The estimator's part of a thermal step: the step counter with its header copy, and the four records (R61, R65). -/
def stepEstimator (s : State) : State :=
  putStepMirror
    { s with thermal := { steps := s.thermal.steps + 1, chains := s.thermal.chains.mapIdx (stepChain s) } }

/-- A thermal step now decreases the transmit watch (R21). -/
def watchCounts (s : State) : Bool :=
  decide (s.governor.state = .running) && anyChainOn s && decide (s.slot.watch ≠ 0)

/-- The step stamp of a stop requested by a thermal step: of the two sides of the step, the manual does not say which. -/
def expiryStamp (before : Stamp) : Stamp :=
  if Config.expiryStampsOldStep before then before else before + 1

/-- The Slot Engine's part of a thermal step: the watch decreases, and at 0 it requests a fault stop (R21, R22). -/
def stepWatch (before : Stamp) (s : State) : State :=
  if watchCounts s then
    let s := { s with slot := { s.slot with watch := s.slot.watch - 1 } }
    if s.slot.watch = 0 then requestStop .slotFlowLost (expiryStamp before) s else s
  else s

/-- A thermal step (R65, R21). -/
def thermalStep (s : State) : State :=
  stepWatch s.thermal.steps (stepEstimator s)

/-- A thermal step now brings the transmit watch to 0 (R22). -/
def watchExpires (s : State) : Bool :=
  watchCounts s && decide (s.slot.watch = 1)

/-- THERMAL_STEP (R65): in every governor state. -/
def execThermalStep (s : State) : Host.Outcome State Fault Refusal :=
  .next (unlessHeld thermalStep s)

/-- TRANSMIT_WATCH_EXPIRY (R22): the thermal step that brings the transmit watch to 0, where THERMAL_STEP would be that
step (log entry 1). -/
def execTransmitWatchExpiry (s : State) : Host.Outcome State Fault Refusal :=
  .next (if watchExpires s then unlessHeld thermalStep s else s)

end Sys2Proof.Machine
end

