-- ==== Sys2Proof/Machine/Protection.lean ====
section
/-! DEFINITION. The Protection Supervisor (chapter 6): sides, the state machine, the evaluation with its actions, and the
checks and effects of CONDITION_SETUP and RELEASE_LATCH. -/

namespace Sys2Proof.Machine

/-! ### Sides (R94) -/

/-- Where a quantity stands. -/
inductive Side where
  | trip
  | band
  | recovery
  deriving DecidableEq, Repr

/-- Rising sense: trip side at or above the trip, recovery side at or below the recovery. -/
def risingSide (e : CondEntry) (q : Int) : Side :=
  if e.trip ≤ q then .trip else if q ≤ e.recovery then .recovery else .band

/-- Falling sense: trip side at or below the trip, recovery side at or above the recovery. -/
def fallingSide (e : CondEntry) (q : Int) : Side :=
  if q ≤ e.trip then .trip else if e.recovery ≤ q then .recovery else .band

/-- The table of readings is not fresh: invalid or held (R97). -/
def sensorsBlind (s : State) : Bool :=
  !s.sensors.valid || s.sensors.held

/-- A sensor-based quantity, absent where R97 skips its entry. -/
def unlessBlind (s : State) (side : Side) : Option Side :=
  if sensorsBlind s then none else some side

/-- The chain and the kind k of the id 4c + k. -/
def entryChain (id : Fin 19) : Chain :=
  ⟨id.val / 4 % 4, by omega⟩

/-- The detector code of a chain: the table's corrected code of PD_c (R94, R120). -/
def detectorCode (s : State) (c : Chain) : Nat :=
  s.sensors.readings[7 + c.val].corrected

/-- A chain's module reading. -/
def moduleReading (s : State) (c : Chain) : Reading :=
  s.sensors.readings[c.val]

/-- The stuck-drive side: trip side while the chain is not ON in force and its detector code is at or above the trip,
off it otherwise (R94, R99). -/
def stuckSide (s : State) (c : Chain) (e : CondEntry) : Side :=
  if !chainOn s c && decide (e.trip ≤ (detectorCode s c : Int)) then .trip else .band

/-- The open-sensor side: trip while implausible, recovery while plausible (R94). -/
def openSide (r : Reading) : Side :=
  if r.implausible then .trip else .recovery

/-- The side on which an evaluation finds an entry, absent where the entry is skipped (R94, R97). -/
def entrySide (s : State) (id : Fin 19) (e : CondEntry) : Option Side :=
  if id.val = 16 then
    if s.sensors.readings[4].implausible then none else unlessBlind s (risingSide e s.sensors.readings[4].value)
  else if id.val = 17 then unlessBlind s (risingSide e s.sensors.readings[6].value)
  else if id.val = 18 then unlessBlind s (fallingSide e s.sensors.readings[5].value)
  else if id.val % 4 = 0 then some (risingSide e (s.thermal.chains.get (entryChain id)).tj)
  else if id.val % 4 = 1 then
    if (moduleReading s (entryChain id)).implausible then none
    else unlessBlind s (risingSide e (moduleReading s (entryChain id)).value)
  else if id.val % 4 = 2 then unlessBlind s (stuckSide s (entryChain id) e)
  else unlessBlind s (openSide (moduleReading s (entryChain id)))

/-! ### The state machine (R98 to R103) -/

/-- The entry trips into LATCHED, not TRIPPED: SD only. -/
def latches (id : Fin 19) : Bool :=
  decide (id.val < 16) && decide (id.val % 4 = 2)

/-- The entry in CLEAR, elapsed 0. -/
def clearedEntry (e : CondEntry) : CondEntry :=
  { e with state := .clear, elapsed := 0 }

/-- The entry tripped, elapsed 0. -/
def trippedEntry (id : Fin 19) (e : CondEntry) : CondEntry :=
  { e with state := if latches id then .latched else .tripped, elapsed := 0 }

/-- One evaluation of an entry on a side (R98 to R102). -/
def moveEntry (id : Fin 19) (e : CondEntry) (side : Side) : CondEntry :=
  match e.state, side with
  | .clear, .trip =>
    if e.dwell ≤ 1 then trippedEntry id e else { e with state := .alert, elapsed := 1 }
  | .clear, _ => clearedEntry e
  | .alert, .trip =>
    if e.dwell ≤ min 65535 (e.elapsed + 1) then trippedEntry id e else { e with elapsed := min 65535 (e.elapsed + 1) }
  | .alert, _ => clearedEntry e
  | .tripped, .recovery =>
    if e.hold ≤ 1 then clearedEntry e else { e with state := .holdoff, elapsed := 1 }
  | .tripped, _ => { e with elapsed := 0 }
  | .holdoff, .recovery =>
    if e.hold ≤ min 65535 (e.elapsed + 1) then clearedEntry e else { e with elapsed := min 65535 (e.elapsed + 1) }
  | .holdoff, _ => { e with state := .tripped, elapsed := 0 }
  | .latched, _ => e

/-- One evaluation of an entry: a skipped one keeps state and count (R97), a LATCHED one stays (R102), a disabled one is
CLEAR (R103). -/
def evaluateEntry (id : Fin 19) (e : CondEntry) (side : Option Side) : CondEntry :=
  match side with
  | none => e
  | some x =>
    if e.state = .latched then e
    else if e.dwell = 0 then clearedEntry e
    else moveEntry id e x

/-- The whole table after an evaluation, its inputs read once from the state before it (R96). -/
def evaluatedEntries (s : State) : Vector CondEntry 19 :=
  vmapIdx (fun id e => evaluateEntry id e (entrySide s id e)) s.supervisor.entries

/-! ### Notice of a change (R104) -/

/-- An entry into TRIPPED or LATCHED. -/
def tripsTo (old new : CondState) : Bool :=
  decide (old ≠ new) && (decide (new = .tripped) || decide (new = .latched))

/-- A return to CLEAR from TRIPPED, HOLDOFF or LATCHED. -/
def clearsFrom (old new : CondState) : Bool :=
  decide (new = .clear) && (old.acting || decide (old = .latched))

/-- A change that sets the cause COND. -/
def noticed (old new : CondState) : Bool :=
  tripsTo old new || clearsFrom old new

/-- Some entry's change sets the cause COND. -/
def anyNoticed (old new : Vector CondEntry 19) : Bool :=
  (List.finRange 19).any fun id => noticed old[id].state new[id].state

/-! ### Cut requests (R107) -/

/-- The cut request that the entries call for: JT acting or SD LATCHED. -/
def cutWanted (entries : Vector CondEntry 19) (c : Chain) : Bool :=
  entries[chainEntry c 0].state.acting || decide (entries[chainEntry c 2].state = .latched)

/-- The reason with which a cut request of chain c is raised (R17). -/
def cutReason (s : State) (c : Chain) : Reason :=
  if condState s (chainEntry c 2) = .latched ∧
      (!(condState s (chainEntry c 0)).acting || Config.latchRaisesFirst s.thermal.steps c) then .lock else .cut

/-- Chain c's cut request brought to what its entries call for: raised, with the Slot Engine muting the chain, or
withdrawn. DESIGN CHOICE (log entry 31): where JT returns to CLEAR and SD enters LATCHED at one evaluation, the request stays
raised without a new raise, so the reasons in force and pending stay as they were. -/
def syncCut (s : State) (c : Chain) : State :=
  let want := cutWanted s.supervisor.entries c
  let raise := want && !s.supervisor.cutRequest.get c
  let s := if raise then cutChain c (cutReason s c) s else s
  { s with supervisor := { s.supervisor with cutRequest := s.supervisor.cutRequest.set c want } }

/-- Every chain's cut request brought up to date, and the MUTE lines asserted at once (R107, R144). -/
def syncCuts (s : State) : State :=
  assertMutes (syncCut (syncCut (syncCut (syncCut s 0) 1) 2) 3)

/-! ### Latches (R109 to R111) -/

/-- The fault record of a latch on chain c: the values as they stand before the cut request is raised (R110). -/
def faultAtLatch (s : State) (c : Chain) : FaultRecord where
  present := true
  released := false
  condId := 4 * c.val + 2
  slot := s.slot.n
  stamp := s.thermal.steps
  rise := (s.thermal.chains.get c).rise
  tj := (s.thermal.chains.get c).tj
  tm := (s.thermal.chains.get c).tm
  detector := detectorCode s c
  state := (s.slot.inForce.get c).force.state
  reason := (s.slot.inForce.get c).reason
  grant := (s.slot.inForce.get c).force.grant
  ackKnown := (s.drive.chains.get c).lastAck.isSome
  ackWord := match (s.drive.chains.get c).lastAck with
    | some w => w.code
    | none => Config.unknownWordByte s.thermal.steps c
  latchCount := min 255 (s.supervisor.latchCount.get c + 1)

/-- The SD entry of chain c enters LATCHED at the evaluation. -/
def newLatch (s : State) (entries : Vector CondEntry 19) (c : Chain) : Bool :=
  decide (condState s (chainEntry c 2) ≠ .latched) && decide (entries[chainEntry c 2].state = .latched)

/-- A latch on chain c: its latch count, its retained fault record and the record's entry in exchange memory (R109). -/
def recordLatch (f : FaultRecord) (c : Chain) (s : State) : State :=
  putFault c { s with supervisor := { s.supervisor with
    latchCount := s.supervisor.latchCount.set c f.latchCount
    faults := s.supervisor.faults.set c f } }

/-- A latch recorded where there is one. -/
def recordLatchIf (b : Bool) (f : FaultRecord) (c : Chain) (s : State) : State :=
  if b then recordLatch f c s else s

/-- The latches of an evaluation, each record formed from the state before it. -/
def recordLatches (before : State) (s : State) : State :=
  let new (c : Chain) := newLatch before s.supervisor.entries c
  recordLatchIf (new 3) (faultAtLatch before 3) 3 (recordLatchIf (new 2) (faultAtLatch before 2) 2
    (recordLatchIf (new 1) (faultAtLatch before 1) 1 (recordLatchIf (new 0) (faultAtLatch before 0) 0 s)))

/-! ### The evaluation (R96) -/

/-- All four open-sensor entries stand in TRIPPED (R112). -/
def allSensorsLost (s : State) : Bool :=
  decide (condState s (chainEntry 0 3) = .tripped) && decide (condState s (chainEntry 1 3) = .tripped) &&
    decide (condState s (chainEntry 2 3) = .tripped) && decide (condState s (chainEntry 3 3) = .tripped)

/-- The condition table replaced. -/
def withEntries (entries : Vector CondEntry 19) (s : State) : State :=
  { s with supervisor := { s.supervisor with entries := entries } }

/-- A new evaluation: what an earlier one has cut is no longer just cut (log entry 27). -/
def forgetCuts (s : State) : State :=
  { s with slot := { s.slot with justCut := .fill false } }

/-- An evaluation without its SENSORS_LOST test: the state machine on every entry, the fault records, the cut requests,
the cause COND. -/
def evaluateTable (s : State) : State :=
  let entries := evaluatedEntries s
  setCauseIf (anyNoticed s.supervisor.entries entries) .cond (syncCuts (recordLatches s (withEntries entries (forgetCuts s))))

/-- The evaluation of the whole table as one event (R96, R112). -/
def evaluate (s : State) : State :=
  let s := evaluateTable s
  if allSensorsLost s then requestStop .sensorsLost s.thermal.steps s else s

/-- CONDITION_EVALUATION (R96): in every governor state. -/
def execConditionEvaluation (s : State) : Host.Outcome State Fault Refusal :=
  .next (unlessHeld evaluate s)

/-- An evaluation now trips the entry: an entry to TRIPPED or LATCHED (R98, R99, R101). -/
def wouldTrip (s : State) (id : Fin 19) : Bool :=
  tripsTo (condState s id) (evaluatedEntries s)[id].state

/-- An evaluation now returns the entry to CLEAR from an acting state (R100, R101, R103). -/
def wouldClear (s : State) (id : Fin 19) : Bool :=
  clearsFrom (condState s id) (evaluatedEntries s)[id].state

/-- CONDITION_TRIP (R99): the evaluation at which the entry trips, where CONDITION_EVALUATION would be that evaluation
(log entry 1). -/
def execConditionTrip (id : Fin 19) (s : State) : Host.Outcome State Fault Refusal :=
  .next (if wouldTrip s id then unlessHeld evaluate s else s)

/-- CONDITION_CLEAR (R101): the evaluation at which the entry returns to CLEAR from an acting state, where
CONDITION_EVALUATION would be that evaluation (log entry 1). -/
def execConditionClear (id : Fin 19) (s : State) : Host.Outcome State Fault Refusal :=
  .next (if wouldClear s id then unlessHeld evaluate s else s)

/-! ### CONDITION_SETUP (R115, R116) -/

/-- The range of an entry's trip (R95), where it uses one. -/
def tripInRange (id : Fin 19) (trip : Int) : Bool :=
  if id.val = 16 then decide (-2560 ≤ trip) && decide (trip ≤ 11200)
  else if 16 < id.val then decide (0 ≤ trip) && decide (trip ≤ 8190)
  else if id.val % 4 = 0 then decide (-2560 ≤ trip) && decide (trip ≤ 27583)
  else if id.val % 4 = 1 then decide (-2560 ≤ trip) && decide (trip ≤ 11200)
  else if id.val % 4 = 2 then decide (0 ≤ trip) && decide (trip ≤ 4095)
  else true

/-- The range of an entry's recovery (R95), and its side of the trip: below for a rising entry, above for SV. -/
def recoveryInRange (id : Fin 19) (trip recovery : Int) : Bool :=
  if id.val = 16 then decide (-2560 ≤ recovery) && decide (recovery ≤ 11200) && decide (recovery < trip)
  else if id.val = 17 then decide (0 ≤ recovery) && decide (recovery ≤ 8190) && decide (recovery < trip)
  else if id.val = 18 then decide (0 ≤ recovery) && decide (recovery ≤ 8190) && decide (trip < recovery)
  else if id.val % 4 = 0 then decide (-2560 ≤ recovery) && decide (recovery ≤ 27583) && decide (recovery < trip)
  else if id.val % 4 = 1 then decide (-2560 ≤ recovery) && decide (recovery ≤ 11200) && decide (recovery < trip)
  else true

/-- The range of an entry's cap or budget (R93), where it uses one. -/
def capInRange (id : Fin 19) (cap : Int) : Bool :=
  if 16 < id.val then decide (0 ≤ cap) && decide (cap ≤ 8000)
  else if id.val = 16 ∨ id.val % 4 = 1 ∨ id.val % 4 = 3 then decide (-200 ≤ cap) && decide (cap ≤ 120)
  else true

/-- The first argument of a CONDITION_SETUP that fails, counted from 1; dwell and hold cannot fail. -/
def condSetupFault (id : Fin 19) (trip recovery cap : Int) : Option Nat :=
  if !tripInRange id trip then some 2
  else if !recoveryInRange id trip recovery then some 4
  else if !capInRange id cap then some 6
  else none

/-- An entry with its five parameters replaced; its state and count kept but for a dwell of 0, which disables it at once,
LATCHED apart (R116, R103). -/
def setupEntry (trip : Int) (dwell : Nat) (recovery : Int) (hold : Nat) (cap : Int) (e : CondEntry) : CondEntry :=
  let e := { e with trip := trip, dwell := dwell, recovery := recovery, hold := hold, cap := cap }
  if dwell = 0 ∧ e.state ≠ .latched then clearedEntry e else e

/-- One entry replaced, with every effect its change of state has: COND, and the cut requests (R103). -/
def replaceEntry (id : Fin 19) (e : CondEntry) (s : State) : State :=
  setCauseIf (noticed (condState s id) e.state) .cond
    (syncCuts (withEntries (s.supervisor.entries.set id.val e id.isLt) s))

/-! ### RELEASE_LATCH (R113) -/

/-- Check 3 fails: the chain is not ON in force and its latest detector code is not below the SD trip. -/
def stillPresent (s : State) (c : Chain) : Bool :=
  !chainOn s c && decide (s.supervisor.entries[chainEntry c 2].trip ≤ (detectorCode s c : Int))

/-- An accepted release: SD to CLEAR, the released flag set in the retained record and in exchange memory, the cut
request withdrawn unless JT acts, COND set. -/
def releaseLatch (c : Chain) (s : State) : State :=
  let s := putFault c { s with supervisor := { s.supervisor with
    faults := s.supervisor.faults.set c { s.supervisor.faults.get c with released := true } } }
  replaceEntry (chainEntry c 2) (clearedEntry s.supervisor.entries[chainEntry c 2]) s

end Sys2Proof.Machine
end

