-- ==== Sys2Proof/Machine/Sensor.lean ====
section
/-! DEFINITION. The Sensor Unit (chapter 7): conversion, scans, holding and settling, CALIBRATE, SELFTEST and SENSOR_SETUP. -/

namespace Sys2Proof.Machine

/-- The Sensor Unit's record rewritten. -/
def mapSensors (f : SensorUnit → SensorUnit) (s : State) : State :=
  { s with sensors := f s.sensors }

/-! ### From pin to raw code (R120) -/

/-- The upper end of the pins' scale, 1.2 V, in microvolts. -/
def fullScale : Int := 1200000

/-- A channel's raw code from its pin's level in microvolts: below the scale 0, above it 4095; within it the manual gives no
step between codes (log entry 34). -/
def pinCode (ch : Fin 11) (level : Int) : BitVec 12 :=
  if level < 0 then 0 else if fullScale < level then 4095 else Config.codeInScale ch level

/-- The raw codes of a scan from the levels of the eleven pins, each as its channel is converted: what a scan completion of
these pins carries. -/
def scanCodes (levels : Vector Int 11) : Vector (BitVec 12) 11 :=
  vmapIdx pinCode levels

/-! ### From raw code to value (R123 to R125) -/

/-- A code corrected with an offset and gain, not clamped (R132). -/
def correctedCode (offset : Int) (gain : Nat) (code : Int) : Int :=
  ((code - offset) * gain + 2048) / 4096

/-- A temperature channel's converted value (R124). -/
def temperatureOf (pair : ChannelPair) (c : Nat) : Int :=
  clamp (pair.intercept + ((c : Int) * pair.slope) / 4096) (-2560) 11200

/-- Implausible: below 16 or above 4079 (R125). -/
def implausibleCode (c : Nat) : Bool :=
  decide (c < 16) || decide (4079 < c)

/-- A channel's reading from its raw code, with the pairs in force (R123, R124, R125). -/
def convert (u : SensorUnit) (ch : Fin 11) (raw : BitVec 12) : Reading :=
  let c := (clamp (correctedCode u.offset u.gain raw.toNat) 0 4095).toNat
  if h : ch.val < 5 then ⟨raw, c, temperatureOf u.pairs[ch.val] c, implausibleCode c⟩
  else if ch.val < 7 then ⟨raw, c, 2 * c, false⟩
  else ⟨raw, c, c, false⟩

/-! ### Scans (R121, R127) -/

/-- A scan published whole: the table is valid, and Governor Control counts the completion (R121). -/
def publishScan (raw : Vector (BitVec 12) 11) (s : State) : State :=
  countScan (mapSensors (fun u => { u with
    readings := vmapIdx (fun ch r => convert u ch r) raw
    valid := true }) s)

/-- The scan completion that ends settling: SCANNING again, the held flag cleared, the scan published (R127). -/
def endSettling (raw : Vector (BitVec 12) 11) (s : State) : State :=
  publishScan raw (mapSensors (fun u => { u with mode := .scanning, held := false }) s)

/-- A scan completion (R121, R127): published in SCANNING, discarded in SETTLING while the settle count is above 0.
While the converter measures its internal sources there is no scan to complete (R121, log entry 4). -/
def scanCompleted (raw : Vector (BitVec 12) 11) (s : State) : State :=
  match s.sensors.mode with
  | .scanning => publishScan raw s
  | .settling =>
    if s.sensors.settleCount = 0 then endSettling raw s
    else mapSensors (fun u => { u with settleCount := u.settleCount - 1 }) s
  | .calibrating => s
  | .selftesting => s

/-- SCAN_COMPLETION (R121), with the eleven raw codes. -/
def execScanCompletion (raw : Vector (BitVec 12) 11) (s : State) : Host.Outcome State Fault Refusal :=
  .next (unlessHeld (scanCompleted raw) s)

/-- A scan completion now ends settling (R127). -/
def settlingEnds (s : State) : Bool :=
  decide (s.sensors.mode = .settling) && decide (s.sensors.settleCount = 0)

/-- SETTLING_END (R127): the scan completion that finds the settle count at 0, where SCAN_COMPLETION would be that one
(log entry 1). -/
def execSettlingEnd (raw : Vector (BitVec 12) 11) (s : State) : Host.Outcome State Fault Refusal :=
  .next (if settlingEnds s then unlessHeld (scanCompleted raw) s else s)

/-- A scan completion now is the third in INIT (R169). -/
def initEnds (s : State) : Bool :=
  decide (s.governor.state = .init) && decide (s.governor.initScans = 2) && decide (s.sensors.mode = .scanning)

/-- INIT_COMPLETE (R169): the third scan completion in INIT, where SCAN_COMPLETION would be that one (log entry 1). -/
def execInitComplete (raw : Vector (BitVec 12) 11) (s : State) : Host.Outcome State Fault Refusal :=
  .next (if initEnds s then unlessHeld (scanCompleted raw) s else s)

/-! ### Holding and settling (R126, R127, R128) -/

/-- The take of CALIBRATE or SELFTEST: the table is held and a scan in progress is abandoned (R128, R131). DESIGN CHOICE (log
entry 28): taken during SETTLING it leaves the settle count as it stands, where R127 names no value. -/
def beginMeasuring (mode : SensorMode) (s : State) : State :=
  mapSensors (fun u => { u with mode := mode, held := true, measurements := [] }) s

/-- Entry to SETTLING with a settle count of 2 (R127). DESIGN CHOICE (log entry 35): it empties the stored measurements, of
which R129 says only that they are kept inside the unit. -/
def beginSettling (s : State) : State :=
  mapSensors (fun u => { u with mode := .settling, settleCount := 2, held := true, measurements := [] }) s

/-- One internal measurement: the zero for the first half of the measurements, the reference for the others (R129,
R131). -/
def measure (half : Nat) (m : Measurement) (s : State) : State :=
  mapSensors (fun u => { u with
    measurements := u.measurements ++
      [if u.measurements.length < half then m.zero.toInt else (m.reference.toNat : Int)] }) s

/-! ### CALIBRATE and SELFTEST completions (R129 to R132) -/

/-- The mean of `n` measurements, floor of (sum + n div 2) div n. -/
def meanOf (n : Nat) (ms : List Int) : Int :=
  (ms.sum + (n / 2 : Nat)) / n

/-- What a calibration finds: z, ref, g_new (0 where it is not formed) and the failing check (R130). -/
structure Calibration where
  zero : Int
  reference : Int
  gain : Int
  failing : Nat
  deriving DecidableEq, Repr

/-- The means, the two checks and the new gain (R129, R130). -/
def calibrationOf (ms : List Int) : Calibration :=
  let z := meanOf 8 (ms.take 8)
  let ref := meanOf 8 ((ms.drop 8).take 8)
  if z < -64 ∨ 64 < z then ⟨z, ref, 0, 1⟩
  else if ref < 2872 ∨ 3272 < ref then ⟨z, ref, 0, 2⟩
  else ⟨z, ref, (4096 * 3072 + (ref - z) / 2) / (ref - z), 0⟩

/-- The calibration pair after a calibration: replaced when no check failed (R130). -/
def applyCalibration (k : Calibration) (s : State) : State :=
  if k.failing = 0 then mapSensors (fun u => { u with offset := k.zero, gain := k.gain.toNat }) s else s

/-- What a self-test finds: corrected zero, corrected reference, fail flag (R132). -/
structure SelfCheck where
  zero : Int
  reference : Int
  failed : Bool
  deriving DecidableEq, Repr

/-- The self-test's means corrected with the pair in force, and its test (R131, R132). -/
def selfCheckOf (u : SensorUnit) : SelfCheck :=
  let cz := correctedCode u.offset u.gain (meanOf 4 (u.measurements.take 4))
  let cr := correctedCode u.offset u.gain (meanOf 4 ((u.measurements.drop 4).take 4))
  ⟨cz, cr, !(decide (-24 ≤ cz) && decide (cz ≤ 24) && decide (3048 ≤ cr) && decide (cr ≤ 3096))⟩

/-! ### SENSOR_SETUP (R133) -/

/-- A temperature channel's pair replaced, and settling begun. -/
def setChannel (ch : Fin 5) (pair : ChannelPair) (s : State) : State :=
  beginSettling (mapSensors (fun u => { u with pairs := u.pairs.set ch.val pair ch.isLt }) s)

end Sys2Proof.Machine
end

