-- ==== Sys2Proof/Machine/Directive.lean ====
section
/-! DEFINITION. The Directive Processor (chapter 9): the take of each of the fourteen kinds, completions, the scan, the
step event, and the directive rows of the table. -/

namespace Sys2Proof.Machine

/-! ### Codes -/

/-- Directive result codes 0 to 7 (spec/00_scope.md). -/
inductive ResultCode where
  | ok
  | unknownKind
  | badArgument
  | refusedState
  | conditionPresent
  | profileInvalid
  | calFailed
  | aborted
  deriving DecidableEq, Repr

def ResultCode.code : ResultCode → Byte
  | .ok => 0
  | .unknownKind => 1
  | .badArgument => 2
  | .refusedState => 3
  | .conditionPresent => 4
  | .profileInvalid => 5
  | .calFailed => 6
  | .aborted => 7

/-- What a take or a completion answers: DONE with result data, FAILED with a code and result data, or the directive
becomes active. A failed take leaves every block as it was. -/
inductive Taken where
  | done (s : State) (data : List Byte)
  | failed (s : State) (why : ResultCode) (data : List Byte)
  | active (s : State) (kind : ActiveKind) (timer : Option Nat)

/-- FAILED, BAD_ARGUMENT with the number of the argument (R154). -/
def badArgument (s : State) (n : Nat) : Taken :=
  .failed s .badArgument [byteOf n]

/-! ### Entries (R149, R182) -/

/-- A part-side write of an entry's state byte, result code and eight result data bytes; the other bytes are the host's. -/
def putEntry (e : BitVec 5) (state : Byte) (why : ResultCode) (data : List Byte) (s : State) : State :=
  partWrite (entryAddr e + 24) ((data ++ zeros 8).take 8)
    (partWrite (entryAddr e + 3) [why.code] (partWrite (entryAddr e) [state] s))

/-! ### The kinds (section 9.4) -/

/-- SLOT_SETUP's effect (R23). -/
def setupSlots (n : Half) (code : Fin 4) (m watch : Nat) (s : State) : State :=
  putSlotMirror { s with slot := { s.slot with
    n := n
    lengthCode := code
    holdLimit := m
    watchPeriod := watch
    watch := watch
    missCount := 0
    carriedMiss := 0
    lastOutcomeMissed := false } }

/-- 0x01 SLOT_SETUP: N; length code 0 to 3; M 0 to 7; watch period 1 to 255. -/
def takeSlotSetup (a : List Byte) (s : State) : Taken :=
  if h : arg8 a 6 < 4 then
    if 7 < arg8 a 7 then badArgument s 3
    else if arg8 a 8 = 0 then badArgument s 4
    else .done (setupSlots (arg16 a 4) ⟨arg8 a 6, h⟩ (arg8 a 7) (arg8 a 8) s) []
  else badArgument s 2

/-- 0x02 CHAIN_SETUP (R158): chain 0 to 3; Tsoft 3840 to 11200; floor -80 to 120; fallback -2560 to 11200. -/
def takeChainSetup (a : List Byte) (s : State) : Taken :=
  if h : arg8 a 4 < 4 then
    if argInt a 6 < 3840 ∨ 11200 < argInt a 6 then badArgument s 2
    else if argInt a 8 < -80 ∨ 120 < argInt a 8 then badArgument s 3
    else if argInt a 10 < -2560 ∨ 11200 < argInt a 10 then badArgument s 4
    else .done { s with config := s.config.set ⟨arg8 a 4, h⟩ ⟨argInt a 6, argInt a 8, argInt a 10⟩ } []
  else badArgument s 1

/-- An entry's trip or recovery argument: signed for the temperatures, unsigned for codes, currents and voltages
(R190). -/
def condQuantity (id : Fin 19) (a : List Byte) (offset : Nat) : Int :=
  if 16 < id.val ∨ (id.val < 16 ∧ id.val % 4 = 2) then argNat a offset else argInt a offset

/-- 0x03 CONDITION_SETUP (R115): id; trip; dwell; recovery; hold; cap or budget. -/
def takeConditionSetup (a : List Byte) (s : State) : Taken :=
  if h : arg8 a 4 < 19 then
    let id : Fin 19 := ⟨arg8 a 4, h⟩
    let trip := condQuantity id a 6
    let recovery := condQuantity id a 10
    let cap := argInt a 14
    match condSetupFault id trip recovery cap with
    | some n => badArgument s n
    | none =>
      .done (replaceEntry id (setupEntry trip (argNat a 8) recovery (argNat a 12) cap s.supervisor.entries[id]) s) []
  else badArgument s 1

/-- 0x04 SUPPLY_SETUP (R48): B_cfg 0 to 8000; the last effective budget is formed anew. -/
def takeSupplySetup (a : List Byte) (s : State) : Taken :=
  if 8000 < argNat a 4 then badArgument s 1
  else .done (formBudget { s with supply := { s.supply with configured := argNat a 4 } }) []

/-- 0x05 SENSOR_SETUP (R133): channel 0 to 4; a -2560 to 11200; s 1 to 32767. -/
def takeSensorSetup (a : List Byte) (s : State) : Taken :=
  if h : arg8 a 4 < 5 then
    if argInt a 6 < -2560 ∨ 11200 < argInt a 6 then badArgument s 2
    else if argNat a 8 = 0 ∨ 32767 < argNat a 8 then badArgument s 3
    else .done (setChannel ⟨arg8 a 4, h⟩ ⟨argInt a 6, argNat a 8⟩ s) []
  else badArgument s 1

/-- 0x06 PROFILE_LOAD (R83): j 0 to 15; one step. -/
def takeProfileLoad (a : List Byte) (s : State) : Taken :=
  if h : arg8 a 4 < 16 then .active (fillBuffer ⟨arg8 a 4, h⟩ s) (.profileLoad ⟨arg8 a 4, h⟩) (some 1)
  else badArgument s 1

/-- 0x07 PROFILE_DROP (R89): j 0 to 15. -/
def takeProfileDrop (a : List Byte) (s : State) : Taken :=
  if h : arg8 a 4 < 16 then .done (dropProfile ⟨arg8 a 4, h⟩ s) []
  else badArgument s 1

/-- 0x08 CALIBRATE (R128): 16 steps. -/
def takeCalibrate (s : State) : Taken :=
  .active (beginMeasuring .calibrating s) .calibrate (some 16)

/-- 0x09 SELFTEST (R131): 8 steps. -/
def takeSelftest (s : State) : Taken :=
  .active (beginMeasuring .selftesting s) .selftest (some 8)

/-- A source tag: 0 to 10 or 16 to 32 (R161). -/
def tagInRange (tag : Byte) : Bool :=
  decide (tag.toNat ≤ 10) || (decide (16 ≤ tag.toNat) && decide (tag.toNat ≤ 32))

/-- The first tag, by its argument number, that is out of range or repeats one before it. -/
def tagFault : Nat → List Byte → List Byte → Option Nat
  | _, _, [] => none
  | n, seen, tag :: tags =>
    if !tagInRange tag || seen.contains tag then some n else tagFault (n + 1) (tag :: seen) tags

/-- 0x0A CAPTURE_START (R161): count 1 to 8; that many tags; d 1 to 255; T 0 to 1023. -/
def takeCaptureStart (a : List Byte) (s : State) : Taken :=
  let tags := (a.drop 1).take (arg8 a 4)
  if arg8 a 4 = 0 ∨ 8 < arg8 a 4 then badArgument s 1
  else match tagFault 2 [] tags with
    | some n => badArgument s n
    | none =>
      if arg8 a 13 = 0 then badArgument s 10
      else if 1023 < argNat a 14 then badArgument s 11
      else .done (startCapture tags (arg8 a 13) (argNat a 14) s) []

/-- 0x0B CAPTURE_STOP (R163): at once, or waiting for the burst in flight. -/
def takeCaptureStop (s : State) : Taken :=
  if s.capture.on = true ∧ s.capture.burst.isSome then .active s .captureStop none
  else .done (stopCapture s) []

/-- 0x0C RELEASE_LATCH (R113): the three checks in order, then the release. -/
def takeReleaseLatch (a : List Byte) (s : State) : Taken :=
  if h : arg8 a 4 < 4 then
    let c : Chain := ⟨arg8 a 4, h⟩
    if condState s (chainEntry c 2) ≠ .latched then badArgument s 0
    else if stillPresent s c then .failed s .conditionPresent (le16 (u16 (detectorCode s c)))
    else .done (releaseLatch c s) [byteOf (4 * c.val + 2), byteOf (s.supervisor.latchCount.get c)]
  else badArgument s 1

/-- 0x0D PAUSE (R159): n 1 to 255; n steps. -/
def takePause (a : List Byte) (s : State) : Taken :=
  if arg8 a 4 = 0 then badArgument s 1 else .active s (.pause (arg8 a 4)) (some (arg8 a 4))

/-- The posted run from an entry on, at most `fuel` entries, marked DISCARDED one by one; how many there were (R160). -/
def discardRun : Nat → BitVec 5 → State → State × Nat
  | 0, _, s => (s, 0)
  | fuel + 1, e, s =>
    if entryState s.xm e = 1 then
      let r := discardRun fuel (e + 1) (putEntry e 5 .ok [] s)
      (r.1, r.2 + 1)
    else (s, 0)

/-- 0x0E CLEAR_PENDING (R160): the walk covers at most the 31 entries after its own. -/
def takeClearPending (s : State) : Taken :=
  let r := discardRun 31 (s.directives.cursor + 1) s
  .done r.1 [byteOf r.2]

/-! ### The take (R153) -/

/-- The governor states that accept a kind (the table of section 9.4). -/
def accepted (kind : Nat) (g : GovState) : Bool :=
  match g with
  | .init => false
  | .idle => true
  | .running => decide (kind ≠ 0x01)
  | .stopping => decide (kind ≠ 0x01) && decide (kind ≠ 0x0A)
  | .stopped => decide (kind ≠ 0x0A)

/-- A known, accepted kind handed to its owning block. -/
def takeKind (kind : Nat) (a : List Byte) (s : State) : Taken :=
  match kind with
  | 0x01 => takeSlotSetup a s
  | 0x02 => takeChainSetup a s
  | 0x03 => takeConditionSetup a s
  | 0x04 => takeSupplySetup a s
  | 0x05 => takeSensorSetup a s
  | 0x06 => takeProfileLoad a s
  | 0x07 => takeProfileDrop a s
  | 0x08 => takeCalibrate s
  | 0x09 => takeSelftest s
  | 0x0A => takeCaptureStart a s
  | 0x0B => takeCaptureStop s
  | 0x0C => takeReleaseLatch a s
  | 0x0D => takePause a s
  | 0x0E => takeClearPending s
  | _ => .failed s .unknownKind [0]

/-- The checks of R153 in order: kind, governor state, then the kind's own. -/
def takeDirective (kind : Byte) (a : List Byte) (s : State) : Taken :=
  if kind.toNat = 0 ∨ 14 < kind.toNat then .failed s .unknownKind [0]
  else if accepted kind.toNat s.governor.state then takeKind kind.toNat a s
  else .failed s .refusedState [0]

/-! ### Completion and scan (R152, R155) -/

/-- A completion, after the owning block's work: the entry written, the cause DIRECTIVE set where the entry asks for it,
the active directive cleared, the cursor advanced with its mirror. -/
def completeEntry (state : Byte) (why : ResultCode) (data : List Byte) (notify : Bool) (s : State) : State :=
  let s := setCauseIf notify .directive (putEntry s.directives.cursor state why data s)
  putCursorMirror { s with directives := ⟨s.directives.cursor + 1, none⟩ }

/-- An answer brought into the list: a completion, or the entry written ACTIVE. -/
def settle (notify : Bool) : Taken → State
  | .done s data => completeEntry 3 .ok data notify s
  | .failed s why data => completeEntry 4 why data notify s
  | .active s kind timer =>
    let s := putEntry s.directives.cursor 2 .ok [] s
    { s with directives := { s.directives with active := some ⟨kind, timer, notify⟩ } }

/-- The entry at the cursor taken. -/
def takeAtCursor (s : State) : State :=
  settle (entryNotify s.xm s.directives.cursor)
    (takeDirective (entryKind s.xm s.directives.cursor) (entryArgs s.xm s.directives.cursor) s)

/-- The scan goes on while no directive is active and the entry at the cursor is POSTED, at most once round the ring
(R155). -/
def scanFrom : Nat → State → State
  | 0, s => s
  | fuel + 1, s =>
    if s.directives.active.isNone ∧ entryState s.xm s.directives.cursor = 1 then scanFrom fuel (takeAtCursor s) else s

/-- A scan of the list: not in INIT (R152). -/
def scan (s : State) : State :=
  if s.governor.state = .init then s else scanFrom 32 s

/-- A completion of the active directive, on which the scan continues in the same event. -/
def completeActive (a : ActiveDirective) (answer : Taken) : State :=
  scan (settle a.notify answer)

/-! ### The step event (R156) -/

/-- PROFILE_LOAD's completion: failing point and fault kind (R86, R87). -/
def answerLoad (s : State) : Taken :=
  match s.store.buffer.bind imageFault with
  | none => .done (finishLoad s) [0, 0]
  | some f => .failed (finishLoad s) .profileInvalid [byteOf f.point, byteOf f.kind]

/-- CALIBRATE's completion, after its last measurement (R130). -/
def answerCalibrate (s : State) : Taken :=
  let k := calibrationOf s.sensors.measurements
  let data := le16 (i16 k.zero) ++ le16 (i16 k.reference) ++ le16 (i16 k.gain) ++ [byteOf k.failing]
  let s := beginSettling (applyCalibration k s)
  if k.failing = 0 then .done s data else .failed s .calFailed data

/-- SELFTEST's completion, after its last measurement (R132). DESIGN CHOICE (log entry 36): the byte of the fail flag is 1
when set and 0 when clear, where R132 and R190 give only its place. -/
def answerSelftest (s : State) : Taken :=
  let k := selfCheckOf s.sensors
  .done (beginSettling s) (le16 (i16 k.zero) ++ le16 (i16 k.reference) ++ [flagBit k.failed 0])

/-- The owning block's completion work of a directive whose timer reached 0. -/
def answerTimed (kind : ActiveKind) (s : State) : Taken :=
  match kind with
  | .profileLoad _ => answerLoad s
  | .calibrate => answerCalibrate s
  | .selftest => answerSelftest s
  | .pause _ => .done s []
  | .captureStop => .done s []

/-- The measurement of a step while CALIBRATE or SELFTEST is active (R129, R131). -/
def stepMeasurement (kind : ActiveKind) (m : Measurement) (s : State) : State :=
  match kind with
  | .calibrate => measure 8 m s
  | .selftest => measure 4 m s
  | .profileLoad _ => s
  | .pause _ => s
  | .captureStop => s

/-- The Directive Processor's step event: the active directive's timer counts, at 0 it completes; with none active the
list is scanned (R152, R156). -/
def directiveStep (m : Measurement) (s : State) : State :=
  match s.directives.active with
  | none => scan s
  | some a =>
    match a.timer with
    | none => s
    | some t =>
      let s := stepMeasurement a.kind m s
      if t ≤ 1 then completeActive a (answerTimed a.kind s)
      else { s with directives := { s.directives with active := some { a with timer := some (t - 1) } } }

/-- DIRECTIVE_STEP_EVENT (R152), with what the converter reads from its internal sources at the step. -/
def execDirectiveStepEvent (m : Measurement) (s : State) : Host.Outcome State Fault Refusal :=
  .next (unlessHeld (directiveStep m) s)

/-- The active directive is of the given sort and a step event now completes it. -/
def completesNow (p : ActiveKind → Bool) (s : State) : Bool :=
  match s.directives.active with
  | none => false
  | some a =>
    match a.timer with
    | none => false
    | some t => p a.kind && decide (t ≤ 1)

/-- No measurement is read by a PROFILE_LOAD or a PAUSE. -/
def noMeasurement : Measurement := ⟨0, 0⟩

/-- PROFILE_LOAD_COMPLETION (R85): the step event at which the load completes, where DIRECTIVE_STEP_EVENT would be that
one (log entry 1). -/
def execProfileLoadCompletion (s : State) : Host.Outcome State Fault Refusal :=
  .next (if completesNow (fun k => match k with | .profileLoad _ => true | _ => false) s then
    unlessHeld (directiveStep noMeasurement) s else s)

/-- CALIBRATE_COMPLETION (R130): the sixteenth step, with its measurement (log entry 1). -/
def execCalibrateCompletion (m : Measurement) (s : State) : Host.Outcome State Fault Refusal :=
  .next (if completesNow (fun k => decide (k = .calibrate)) s then unlessHeld (directiveStep m) s else s)

/-- SELFTEST_COMPLETION (R132): the eighth step, with its measurement (log entry 1). -/
def execSelftestCompletion (m : Measurement) (s : State) : Host.Outcome State Fault Refusal :=
  .next (if completesNow (fun k => decide (k = .selftest)) s then unlessHeld (directiveStep m) s else s)

/-- PAUSE_COMPLETION (R159): the n-th step event after the take (log entry 1). -/
def execPauseCompletion (s : State) : Host.Outcome State Fault Refusal :=
  .next (if completesNow (fun k => match k with | .pause _ => true | _ => false) s then
    unlessHeld (directiveStep noMeasurement) s else s)

/-! ### NUDGE and the posting of a directive (R150, R152) -/

/-- A write to NUDGE: a scan, ignored in INIT and while a directive is active. -/
def nudgeWrite (s : State) : State :=
  if s.directives.active.isSome then s else scan s

/-- A port transaction ends the read transaction that may have been in progress. -/
def endReading (s : State) : State :=
  { s with port := { s.port with reading := none } }

/-- NUDGE (R152): a write transaction of the NUDGE register alone. -/
def execNudge (s : State) : Host.Outcome State Fault Refusal :=
  .next (unlessHeld (fun s => nudgeWrite (endReading s)) s)

/-- What R150 makes of a host transaction that writes the whole entry at the cursor, state POSTED: discarded over an
ACTIVE entry; otherwise state, kind, flags and arguments land, result code and result data do not. -/
def postAtCursor (kind : Byte) (notify : Bool) (a : List Byte) (s : State) : State :=
  if entryState s.xm s.directives.cursor = 2 then s
  else partWrite (entryAddr s.directives.cursor + 4) ((a ++ zeros 20).take 20)
    (partWrite (entryAddr s.directives.cursor) [1, kind, flagBit notify 0] s)

/-- A directive row of the table: the host posts the directive at the cursor and then writes NUDGE (log entry 2). -/
def issue (kind : Byte) (notify : Bool) (a : List Byte) (s : State) : State :=
  unlessHeld (fun s => nudgeWrite (postAtCursor kind notify a (endReading s))) s

/-- SLOT_SETUP (R23). -/
def execSlotSetup (n : Half) (lengthCode m watch : Byte) (notify : Bool) (s : State) :
    Host.Outcome State Fault Refusal :=
  .next (issue 0x01 notify (le16 n ++ [lengthCode, m, watch]) s)

/-- CHAIN_SETUP (R158). -/
def execChainSetup (chain : Byte) (tsoft floor fallback : Half) (notify : Bool) (s : State) :
    Host.Outcome State Fault Refusal :=
  .next (issue 0x02 notify ([chain, 0] ++ le16 tsoft ++ le16 floor ++ le16 fallback) s)

/-- CONDITION_SETUP (R115). -/
def execConditionSetup (id : Byte) (trip dwell recovery hold cap : Half) (notify : Bool) (s : State) :
    Host.Outcome State Fault Refusal :=
  .next (issue 0x03 notify ([id, 0] ++ le16 trip ++ le16 dwell ++ le16 recovery ++ le16 hold ++ le16 cap) s)

/-- SUPPLY_SETUP (R48). -/
def execSupplySetup (budget : Half) (notify : Bool) (s : State) : Host.Outcome State Fault Refusal :=
  .next (issue 0x04 notify (le16 budget) s)

/-- SENSOR_SETUP (R133). -/
def execSensorSetup (channel : Byte) (intercept slope : Half) (notify : Bool) (s : State) :
    Host.Outcome State Fault Refusal :=
  .next (issue 0x05 notify ([channel, 0] ++ le16 intercept ++ le16 slope) s)

/-- PROFILE_LOAD (R83). -/
def execProfileLoad (j : Byte) (notify : Bool) (s : State) : Host.Outcome State Fault Refusal :=
  .next (issue 0x06 notify [j] s)

/-- PROFILE_DROP (R89). -/
def execProfileDrop (j : Byte) (notify : Bool) (s : State) : Host.Outcome State Fault Refusal :=
  .next (issue 0x07 notify [j] s)

/-- CALIBRATE (R128). -/
def execCalibrate (notify : Bool) (s : State) : Host.Outcome State Fault Refusal :=
  .next (issue 0x08 notify [] s)

/-- SELFTEST (R131). -/
def execSelftest (notify : Bool) (s : State) : Host.Outcome State Fault Refusal :=
  .next (issue 0x09 notify [] s)

/-- CAPTURE_START (R161). -/
def execCaptureStart (count : Byte) (tags : Vector Byte 8) (decimation : Byte) (threshold : Half) (notify : Bool)
    (s : State) : Host.Outcome State Fault Refusal :=
  .next (issue 0x0A notify ([count] ++ tags.toList ++ [decimation] ++ le16 threshold) s)

/-- CAPTURE_STOP (R163). -/
def execCaptureStop (notify : Bool) (s : State) : Host.Outcome State Fault Refusal :=
  .next (issue 0x0B notify [] s)

/-- RELEASE_LATCH (R113). -/
def execReleaseLatch (chain : Byte) (notify : Bool) (s : State) : Host.Outcome State Fault Refusal :=
  .next (issue 0x0C notify [chain] s)

/-- PAUSE (R159). -/
def execPause (n : Byte) (notify : Bool) (s : State) : Host.Outcome State Fault Refusal :=
  .next (issue 0x0D notify [n] s)

/-- CLEAR_PENDING (R160). -/
def execClearPending (notify : Bool) (s : State) : Host.Outcome State Fault Refusal :=
  .next (issue 0x0E notify [] s)

/-! ### Burst completion (R187, R174, R163) -/

/-- In STOPPING a burst's completion turns capture off and raises the Capture Unit's quiet indication (R174). -/
def quietAfterBurst (s : State) : State :=
  if s.governor.state = .stopping then
    enterStoppedIfQuiet (mapGovernor (fun g => { g with quietCapture := true }) (stopCapture s))
  else s

/-- What a burst's completion ends besides: the Capture Unit's part in a stop; a waiting CAPTURE_STOP turns capture off and
completes DONE, and the scan continues (R163). The quiet indication is raised first, as the owning block's completion work
comes before the entry's write in R155 (log entry 12). -/
def afterBurst (s : State) : State :=
  let stopWaits := captureStopWaits s
  let s := quietAfterBurst s
  match s.directives.active with
  | some a => if stopWaits then completeActive a (.done (stopCapture s) []) else s
  | none => s

/-- A burst completion: no burst in flight, no completion (log entry 4). -/
def burstCompleted (s : State) : State :=
  match s.capture.burst with
  | none => s
  | some burst => afterBurst (landBurst burst s)

/-- BURST_COMPLETION (R187). -/
def execBurstCompletion (s : State) : Host.Outcome State Fault Refusal :=
  .next (unlessHeld burstCompleted s)

/-- ENTER_STOPPED (R175): in STOPPING, the event that raises the third quiet indication: the completion of the word in
transfer, with its acknowledge, where only the Drive Port is not quiet; the completion of the burst, where only the
Capture Unit is not (log entry 1). -/
def enterStopped (ack : Bool) (s : State) : State :=
  if s.governor.state = .stopping ∧ s.governor.quietSlot then
    if s.governor.quietDrive then
      if s.governor.quietCapture then enterStoppedIfQuiet s else burstCompleted s
    else if s.governor.quietCapture then transferCompleted ack s else s
  else s

/-- ENTER_STOPPED (R175). -/
def execEnterStopped (ack : Bool) (s : State) : Host.Outcome State Fault Refusal :=
  .next (unlessHeld (enterStopped ack) s)

end Sys2Proof.Machine
end

