-- ==== Sys2Proof/Machine/Reset.lean ====
section
/-! DEFINITION. The resets (R168): the power-on reset, the warm reset of RESET_N and GCTL.WARM_RESET, the release. -/

namespace Sys2Proof.Machine

/-- A warm reset ends the active directive: its entry is written FAILED, ABORTED, result data 0 (R165). -/
def abortActive (s : State) : State :=
  if s.directives.active.isSome then putEntry s.directives.cursor 4 .aborted [] s else s

/-- R119: an entry after a warm reset: default parameters, elapsed 0, LATCHED kept and every other state CLEAR. -/
def warmEntry (id : Fin 19) (e : CondEntry) : CondEntry :=
  { condDefault id with state := if e.state = .latched then .latched else .clear }

/-- R119: the Supervisor after a warm reset; the cut request of a chain with a LATCHED entry stays raised. -/
def warmSupervisor (s : State) : Supervisor where
  entries := vmapIdx warmEntry s.supervisor.entries
  cutRequest := .ofFn fun c => chainLatched s c
  faults := s.supervisor.faults
  latchCount := s.supervisor.latchCount

/-- R24: the in-force record of a chain after a warm reset. -/
def warmInForce (s : State) (c : Chain) : InForce :=
  if chainLatched s c then ⟨.muted, .lock⟩ else mutedByGovernor

/-- R77, second column. -/
def warmThermal (t : ThermalRecord) : ThermalRecord :=
  { t with tm := 6080, substituted := true, tj := 6080 + (t.rise : Int) }

/-- Every block at its warm-reset values, exchange memory apart. -/
def warmBlocks (s : State) : State :=
  { s with
    slot := { slotAtReset with inForce := .ofFn (warmInForce s) }
    config := .fill configDefault
    supply := supplyAtReset
    thermal := { s.thermal with chains := s.thermal.chains.mapIdx fun _ t => warmThermal t }
    store := { s.store with buffer := none }
    supervisor := warmSupervisor s
    sensors := sensorsAtReset s.sensors.offset s.sensors.gain
    drive := ⟨.fill driveAtReset, none⟩
    directives := ⟨0, none⟩
    capture := captureAtReset (readIndex s.xm)
    governor := governorAtReset
    port := ⟨0, 0, none, [], none⟩ }

/-- The outcome calendar at all zeros (R2, R183). -/
def clearOutcomes (s : State) : State :=
  partWrite 0x0400 (zeros 1024) s

/-- The header after a reset (R183): layout version 1, the mirrors, W and the lost count; Rd is the host's. -/
def putHeader (s : State) : State :=
  putCaptureMirror (putStepMirror (putCursorMirror (putLastActivated 0 (putSlotMirror (partWrite 0 (le16 1) s)))))

/-- The four fault records from the retained copies (R119). -/
def putFaults (s : State) : State :=
  putFault 3 (putFault 2 (putFault 1 (putFault 0 s)))

/-- A warm reset, one event (R168, R177, R183); the status board is published after every block has its reset values
(R189). -/
def warmReset (s : State) : State :=
  publishBoard (putFaults (putHeader (clearOutcomes (warmBlocks (abortActive s)))))

/-- A power-on reset, one event: everything as after power-on; RESET_N and the queue of commands are not the part's. -/
def powerOnReset (s : State) : State :=
  { State.reset with pins := ⟨true, s.pins.resetLow⟩, pending := s.pending }

/-- POWER_ON_RESET (R168): held until the supplies come within range. -/
def execPowerOnReset (s : State) : Host.Outcome State Fault Refusal :=
  .next (powerOnReset s)

/-- RESET_N (R168): a low level applies a warm reset and holds it; while an earlier reset is held it changes nothing
further. -/
def execResetN (s : State) : Host.Outcome State Fault Refusal :=
  .next { unlessHeld warmReset s with pins := { s.pins with resetLow := true } }

/-- One of the two holds ends. -/
def release (source : ResetSource) (p : ResetPins) : ResetPins :=
  match source with
  | .supplies => { p with suppliesLow := false }
  | .resetN => { p with resetLow := false }

/-- RESET_RELEASE (R168): the supplies come within range, or RESET_N rises. The timebase starts afresh: the order and
number of its events are the sender's (log entry 13). -/
def execResetRelease (source : ResetSource) (s : State) : Host.Outcome State Fault Refusal :=
  .next { s with pins := release source s.pins }

end Sys2Proof.Machine
end

