-- ==== Sys2Proof/Machine/Port.lean ====
section
/-! DEFINITION. The Memory Port (chapter 11): what a write transaction lands where, the register writes, reads from block
snapshots, and the table's rows of both. -/

namespace Sys2Proof.Machine

/-! ### Host writes into exchange memory (R178, R150) -/

/-- A byte of the directive list that the host may write: not of an ACTIVE entry, not a result code or result data, and
no ACTIVE, DONE, FAILED or DISCARDED into the state field (R150). -/
def directiveByteLands (m : Memory) (a : Nat) (b : Byte) : Bool :=
  let e := a - a % 32
  let offset := a % 32
  if memRead m e = 2 then false
  else if offset = 0 then b.toNat < 2 || 5 < b.toNat
  else decide (offset ≠ 3) && decide (offset < 24)

/-- A host byte lands: Rd, the slot calendar, the directive list as R150 gives, profile staging (R178). -/
def hostByteLands (m : Memory) (a : Nat) (b : Byte) : Bool :=
  if a = 0x003C ∨ a = 0x003D then true
  else if 0x0200 ≤ a ∧ a < 0x0400 then true
  else if 0x0800 ≤ a ∧ a < 0x0C00 then directiveByteLands m a b
  else decide (0x1000 ≤ a) && decide (a < 0x1800)

/-- One host byte, landed or discarded. -/
def hostByte (m : Memory) (a : Nat) (b : Byte) : Memory :=
  if hostByteLands m a b then memStore m a [b] else m

/-- The data bytes of a write transaction, each at the next address, wrapping from 0xFFFF to 0 (R179). -/
def hostWrite : Memory → Half → List Byte → Memory
  | m, _, [] => m
  | m, a, b :: bs => hostWrite (hostByte m a.toNat b) (a + 1) bs

/-! ### Registers (R184) -/

/-- The part code and revision. -/
def partidValue : Half := 0x4822

/-- GCTL reads RUN; WARM_RESET reads 0. -/
def gctlValue (s : State) : Half :=
  if s.governor.run then 1 else 0

/-- GSTATE: bits 2-0 the governor state, bits 5-4 the stop reason. -/
def gstateValue (s : State) : Half :=
  s.governor.state.code.setWidth 16 ||| (s.governor.reason.code.setWidth 16 <<< 4)

/-- The register at an address, NUDGE reading 0. -/
def registerValue (s : State) (a : Half) : Half :=
  if a = 0x4000 then partidValue
  else if a = 0x4002 then gctlValue s
  else if a = 0x4004 then gstateValue s
  else if a = 0x4006 then s.port.ncause.setWidth 16
  else if a = 0x4008 then s.port.nmask.setWidth 16
  else 0

/-- A write to GCTL. WARM_RESET 1: a warm reset, applied and released in this event, the RUN bit not acted on;
WARM_RESET 0: RUN handled by R170. -/
def writeGctl (v : Half) (s : State) : State :=
  if v.getLsbD 1 then warmReset s else if v.getLsbD 0 then writeRun1 s else writeRun0 s

/-- The data byte of a transaction that falls on an address. -/
def byteAt (start : Half) (data : List Byte) (a : Half) : Option Byte :=
  data[(a - start).toNat]?

/-- The value that a transaction writes to a register: both of its bytes, low byte at the lower address. -/
def halfAt (start : Half) (data : List Byte) (a : Half) : Option Half :=
  match byteAt start data a, byteAt start data (a + 1) with
  | some lo, some hi => some (hi ++ lo)
  | _, _ => none

/-- A register written where the transaction writes both of its bytes. -/
def writeHalf (write : Half → State → State) (v : Option Half) (s : State) : State :=
  match v with
  | some v => write v s
  | none => s

/-- The register writes above GCTL, in ascending address order: GSTATE discards, NCAUSE, NMASK, then NUDGE, which either
byte writes (R184). -/
def writeUpperRegisters (start : Half) (data : List Byte) (s : State) : State :=
  let s := writeHalf writeNcause (halfAt start data 0x4006) s
  let s := writeHalf writeNmask (halfAt start data 0x4008) s
  if (byteAt start data 0x400A).isSome || (byteAt start data 0x400B).isSome then nudgeWrite s else s

/-- The register writes of a transaction (R180): PARTID discards; a warm reset discards those that follow it. -/
def writeRegisters (start : Half) (data : List Byte) (s : State) : State :=
  match halfAt start data 0x4002 with
  | some v => if v.getLsbD 1 then writeGctl v s else writeUpperRegisters start data (writeGctl v s)
  | none => writeUpperRegisters start data s

/-- A write transaction lands as one event at the rising edge of CS_N: at most 256 data bytes, the exchange-memory bytes
first, then the register writes (R179, R180). -/
def landWrite (start : Half) (data : List Byte) (s : State) : State :=
  let data := data.take 256
  writeRegisters start data { endReading s with xm := hostWrite s.xm start data }

/-- A write transaction from the bytes after its command: two address bytes, most significant first, then data; with an
incomplete address nothing lands (R179). -/
def writeTransaction (bytes : List Byte) (s : State) : State :=
  match bytes with
  | hi :: lo :: data => landWrite (hi ++ lo) data s
  | _ => endReading s

/-- SPI_WRITE (R180): command 0xA2. -/
def execSpiWrite (bytes : List Byte) (s : State) : Host.Outcome State Fault Refusal :=
  .next (unlessHeld (writeTransaction bytes) s)

/-- SPI_QUAD_WRITE (R180): command 0xB2, the same bytes on four lines. -/
def execSpiQuadWrite (bytes : List Byte) (s : State) : Host.Outcome State Fault Refusal :=
  .next (unlessHeld (writeTransaction bytes) s)

/-! ### Reads (R181) -/

/-- The byte at an address of the port's map (R178). -/
def portByte (s : State) (a : Half) : Byte :=
  if a.toNat < 0x4000 then memRead s.xm a.toNat
  else if a.getLsbD 0 then (registerValue s (a - 1)).extractLsb' 8 8
  else (registerValue s a).extractLsb' 0 8

/-- A snapshot of the aligned 64-byte block that holds an address. -/
def snapshot (s : State) (a : Half) : List Byte :=
  (List.range 64).map fun i => portByte s ((a &&& 0xFFC0) + BitVec.ofNat 16 i)

/-- The next `count` data bytes of a read, each from the snapshot of its block; a snapshot is taken at the first data
byte and at each address that is a multiple of 64. -/
def serveBytes (s : State) : Nat → ReadTransaction → ReadTransaction × List Byte
  | 0, t => (t, [])
  | n + 1, t =>
    let block := if t.block.isEmpty || decide (t.next.toNat % 64 = 0) then snapshot s t.next else t.block
    let rest := serveBytes s n { t with next := t.next + 1, block := block }
    (rest.1, block.getD (t.next.toNat % 64) 0 :: rest.2)

/-- A stretch of a read served; the transaction stays in progress unless CS_N rises after it. -/
def serveRead (t : ReadTransaction) (count : Nat) (last : Bool) (s : State) : State :=
  let r := serveBytes s count t
  { s with port := { s.port with reading := if last then none else some r.1, sent := r.2 } }

/-- A read command with single or quad data phase. With an incomplete address no snapshot is taken and nothing is sent
(R179); `more` goes on with a read in progress on the same lines. -/
def readCommand (quad : Bool) (phase : ReadPhase) (s : State) : State :=
  match phase with
  | .start address count last =>
    match address with
    | [hi, lo] => serveRead ⟨quad, hi ++ lo, []⟩ count last s
    | _ => endReading { s with port := { s.port with sent := [] } }
  | .more count last =>
    match s.port.reading with
    | some t => if t.quad = quad then serveRead t count last s else s
    | none => s

/-- SPI_READ (R181): command 0xA3. -/
def execSpiRead (phase : ReadPhase) (s : State) : Host.Outcome State Fault Refusal :=
  .next (unlessHeld (readCommand false phase) s)

/-- SPI_QUAD_READ (R181): command 0xB3. -/
def execSpiQuadRead (phase : ReadPhase) (s : State) : Host.Outcome State Fault Refusal :=
  .next (unlessHeld (readCommand true phase) s)

/-! ### The register rows: each a write transaction of one register's two bytes -/

/-- A write transaction of one register, by what its write does. -/
def registerTransaction (write : State → State) (s : State) : State :=
  unlessHeld (fun s => write (endReading s)) s

/-- RUN_WRITTEN_1 (R170, R171): GCTL written with RUN 1. -/
def execRunWritten1 (s : State) : Host.Outcome State Fault Refusal :=
  .next (registerTransaction (writeGctl 1) s)

/-- RUN_WRITTEN_0 (R170, R172): GCTL written with RUN 0. -/
def execRunWritten0 (s : State) : Host.Outcome State Fault Refusal :=
  .next (registerTransaction (writeGctl 0) s)

/-- WARM_RESET (R168): GCTL written with WARM_RESET 1. -/
def execWarmReset (s : State) : Host.Outcome State Fault Refusal :=
  .next (registerTransaction (writeGctl 2) s)

/-- NCAUSE_CLEAR (R185): NCAUSE written. -/
def execNcauseClear (bits : Half) (s : State) : Host.Outcome State Fault Refusal :=
  .next (registerTransaction (writeNcause bits) s)

/-- STOPPED_CLEAR (R176): NCAUSE written with 1 in the bit of STOPPED alone. -/
def execStoppedClear (s : State) : Host.Outcome State Fault Refusal :=
  .next (registerTransaction (writeNcause 0x20) s)

/-- NMASK (R185): NMASK written. -/
def execNmask (value : Half) (s : State) : Host.Outcome State Fault Refusal :=
  .next (registerTransaction (writeNmask value) s)

/-- A write to PARTID or GSTATE is discarded (R184). -/
def discardWrite (_register : ReadOnlyRegister) (_value : Half) (s : State) : State := s

/-- REGISTER_WRITE (R184): PARTID or GSTATE written. -/
def execRegisterWrite (register : ReadOnlyRegister) (value : Half) (s : State) : Host.Outcome State Fault Refusal :=
  .next (registerTransaction (discardWrite register value) s)

end Sys2Proof.Machine
end

