-- ==== Sys2Proof/Machine/Dispatch.lean ====
section
/-! DEFINITION. Each command's meaning: its effect on everything but the queue. -/

namespace Sys2Proof.Machine

def exec (i : Instr) (s : State) : Host.Outcome State Fault Refusal :=
  match i with
  | .powerOnReset => Sys2Proof.Machine.execPowerOnReset s
  | .resetN => Sys2Proof.Machine.execResetN s
  | .resetRelease source => Sys2Proof.Machine.execResetRelease source s
  | .slotp => Sys2Proof.Machine.execSlotp s
  | .slota => Sys2Proof.Machine.execSlota s
  | .driveLinkCut c => Sys2Proof.Machine.execDriveLinkCut c s
  | .driveLinkCutClear c => Sys2Proof.Machine.execDriveLinkCutClear c s
  | .transferCompletion ack => Sys2Proof.Machine.execTransferCompletion ack s
  | .thermalStep => Sys2Proof.Machine.execThermalStep s
  | .transmitWatchExpiry => Sys2Proof.Machine.execTransmitWatchExpiry s
  | .enterStopped ack => Sys2Proof.Machine.execEnterStopped ack s
  | .conditionEvaluation => Sys2Proof.Machine.execConditionEvaluation s
  | .conditionTrip id => Sys2Proof.Machine.execConditionTrip id s
  | .conditionClear id => Sys2Proof.Machine.execConditionClear id s
  | .scanCompletion raw => Sys2Proof.Machine.execScanCompletion raw s
  | .settlingEnd raw => Sys2Proof.Machine.execSettlingEnd raw s
  | .initComplete raw => Sys2Proof.Machine.execInitComplete raw s
  | .directiveStepEvent m => Sys2Proof.Machine.execDirectiveStepEvent m s
  | .nudge => Sys2Proof.Machine.execNudge s
  | .slotSetup n lengthCode m watch notify => Sys2Proof.Machine.execSlotSetup n lengthCode m watch notify s
  | .chainSetup chain tsoft floor fallback notify => Sys2Proof.Machine.execChainSetup chain tsoft floor fallback notify s
  | .conditionSetup id trip dwell recovery hold cap notify => Sys2Proof.Machine.execConditionSetup id trip dwell recovery hold cap notify s
  | .supplySetup budget notify => Sys2Proof.Machine.execSupplySetup budget notify s
  | .sensorSetup channel intercept slope notify => Sys2Proof.Machine.execSensorSetup channel intercept slope notify s
  | .profileLoad j notify => Sys2Proof.Machine.execProfileLoad j notify s
  | .profileLoadCompletion => Sys2Proof.Machine.execProfileLoadCompletion s
  | .profileDrop j notify => Sys2Proof.Machine.execProfileDrop j notify s
  | .calibrate notify => Sys2Proof.Machine.execCalibrate notify s
  | .calibrateCompletion m => Sys2Proof.Machine.execCalibrateCompletion m s
  | .selftest notify => Sys2Proof.Machine.execSelftest notify s
  | .selftestCompletion m => Sys2Proof.Machine.execSelftestCompletion m s
  | .captureStart count tags decimation threshold notify => Sys2Proof.Machine.execCaptureStart count tags decimation threshold notify s
  | .captureStop notify => Sys2Proof.Machine.execCaptureStop notify s
  | .releaseLatch chain notify => Sys2Proof.Machine.execReleaseLatch chain notify s
  | .pause n notify => Sys2Proof.Machine.execPause n notify s
  | .pauseCompletion => Sys2Proof.Machine.execPauseCompletion s
  | .clearPending notify => Sys2Proof.Machine.execClearPending notify s
  | .captureStepEvent atStart => Sys2Proof.Machine.execCaptureStepEvent atStart s
  | .burstPreparation => Sys2Proof.Machine.execBurstPreparation s
  | .burstCompletion => Sys2Proof.Machine.execBurstCompletion s
  | .statusBoardPublication => Sys2Proof.Machine.execStatusBoardPublication s
  | .spiWrite bytes => Sys2Proof.Machine.execSpiWrite bytes s
  | .spiQuadWrite bytes => Sys2Proof.Machine.execSpiQuadWrite bytes s
  | .spiRead phase => Sys2Proof.Machine.execSpiRead phase s
  | .spiQuadRead phase => Sys2Proof.Machine.execSpiQuadRead phase s
  | .runWritten1 => Sys2Proof.Machine.execRunWritten1 s
  | .runWritten0 => Sys2Proof.Machine.execRunWritten0 s
  | .warmReset => Sys2Proof.Machine.execWarmReset s
  | .ncauseClear bits => Sys2Proof.Machine.execNcauseClear bits s
  | .stoppedClear => Sys2Proof.Machine.execStoppedClear s
  | .nmask value => Sys2Proof.Machine.execNmask value s
  | .registerWrite register value => Sys2Proof.Machine.execRegisterWrite register value s

end Sys2Proof.Machine
end

