-- ==== Sys2Proof/Machine/Lines.lean ====
section
/-! DEFINITION. The lines of the Memory Port (R179): what each whole byte and each edge of CS_N means, and the commands of
the table that a transaction puts into the queue. Nothing of a transaction lands before its command is taken. -/

namespace Sys2Proof.Machine

/-! ### Commands (R179) -/

/-- What a transaction's command byte asks for: a write or a read, its data phase on IO0 alone or on IO0 to IO3. -/
inductive PortOperation where
  | write (quad : Bool)
  | read (quad : Bool)
  deriving DecidableEq, Repr

/-- The four commands: 0xA2, 0xA3, 0xB2, 0xB3. -/
def portOperation (command : Byte) : Option PortOperation :=
  if command = 0xA2 then some (.write false)
  else if command = 0xA3 then some (.read false)
  else if command = 0xB2 then some (.write true)
  else if command = 0xB3 then some (.read true)
  else none

/-- The row of a write, by its data phase. -/
def writeRow (quad : Bool) (bytes : List Byte) : Instr :=
  if quad then .spiQuadWrite bytes else .spiWrite bytes

/-- The row of a read, by its data phase. -/
def readRow (quad : Bool) (phase : ReadPhase) : Instr :=
  if quad then .spiQuadRead phase else .spiRead phase

/-- What the latest whole byte of a transaction brings about, given the bytes so far, the command byte first: the data bytes
of a read, which follow its two address bytes and its dummy byte, are sent as they fall due. -/
def atByte (bytes : List Byte) : List Instr :=
  match bytes with
  | command :: hi :: lo :: _dummy :: data =>
    match portOperation command with
    | some (.read quad) =>
      match data with
      | [] => []
      | [_] => [readRow quad (.start [hi, lo] 1 false)]
      | _ :: _ :: _ => [readRow quad (.more 1 false)]
    | some (.write _) => []
    | none => []
  | _ => []

/-- What the rising edge of CS_N brings about: a write whose address is complete lands, a read that has sent a data byte
ends. A transaction of another command byte or with an incomplete address is ignored. -/
def atRise (bytes : List Byte) : List Instr :=
  match bytes with
  | command :: hi :: lo :: rest =>
    match portOperation command with
    | some (.write quad) => [writeRow quad (hi :: lo :: rest)]
    | some (.read quad) => if 2 ≤ rest.length then [readRow quad (.more 0 true)] else []
    | none => []
  | _ => []

/-! ### The lines -/

/-- An event of the port's lines: an edge of CS_N, or the last bit of a whole byte. With the rising edge come the bits of a
byte that the edge cuts short. -/
inductive LineEvent where
  | csFalls
  | byteEnds (b : Byte)
  | csRises (cut : List Bool)
  deriving DecidableEq, Repr

/-- Commands that join the queue behind those that wait. -/
def enqueue (cs : List Instr) (s : State) : State :=
  { s with pending := s.pending ++ cs }

/-- The bytes of the transaction in progress. -/
def receive (bytes : Option (List Byte)) (s : State) : State :=
  { s with port := { s.port with incoming := bytes } }

/-- A line event (R179): while a reset is held CS_N is not acted on; a transaction that a reset has abandoned (the resets
leave none in progress) goes on unheeded until CS_N falls again; a byte cut short is discarded. -/
def lineEvent (e : LineEvent) (s : State) : State :=
  if resetHeld s then s
  else match e, s.port.incoming with
    | .csFalls, _ => receive (some []) s
    | .byteEnds b, some bytes => enqueue (atByte (bytes ++ [b])) (receive (some (bytes ++ [b])) s)
    | .csRises _cut, some bytes => enqueue (atRise bytes) (receive none s)
    | .byteEnds _, none => s
    | .csRises _, none => s

/-- Line events one after another, with no event of the part between them. -/
def lineEvents (es : List LineEvent) (s : State) : State :=
  es.foldl (fun s e => lineEvent e s) s

/-- A whole transaction on the lines: CS_N falls, the bytes follow, CS_N rises in the middle of a further byte. -/
def transaction (bytes : List Byte) (cut : List Bool) : List LineEvent :=
  .csFalls :: bytes.map .byteEnds ++ [.csRises cut]

end Sys2Proof.Machine
end

