-- ==== Sys2Proof/Safety.lean ====
section
/-! DEFINITION. What the claims about the machine speak of: runs that do not stop, what an event leaves alone, the
completion of a directive, and the invariants. -/

namespace Sys2Proof.Machine

/-- The outcome is a next state. -/
def GoesOn (o : Host.Outcome State Fault Refusal) : Prop :=
  ∃ t, o = .next t

/-- A property that every step keeps, from every state that has it. -/
def StepKeeps (inv : State → Prop) : Prop :=
  ∀ s t, inv s → step s = .next t → inv t

/-! ### The sorts of event that a command can raise -/

/-- The sorts of event by which blocks change what they own. -/
inductive EventSort where
  | powerOn
  | warm
  | prepare
  | activate
  | thermal
  | evaluation
  | scan
  | directive
  | hostWrite
  deriving DecidableEq, Repr

/-- A write transaction carries a warm reset: it writes both bytes of GCTL, WARM_RESET 1 (R184). -/
def carriesWarmReset : List Byte → Bool
  | hi :: lo :: data =>
    match halfAt (hi ++ lo) (data.take 256) 0x4002 with
    | some v => v.getLsbD 1
    | none => false
  | _ => false

/-- The sorts of event that can fall within a command: a write transaction can carry a warm reset, and one that writes NUDGE
scans the directive list. -/
def raises (c : Instr) (x : EventSort) : Bool :=
  match c with
  | .powerOnReset => decide (x = .powerOn)
  | .resetN => decide (x = .warm)
  | .resetRelease _ => false
  | .slotp => decide (x = .prepare)
  | .slota => decide (x = .activate)
  | .driveLinkCut _ => decide (x = .activate)
  | .driveLinkCutClear _ => decide (x = .activate)
  | .transferCompletion _ => false
  | .thermalStep => decide (x = .thermal)
  | .transmitWatchExpiry => decide (x = .thermal)
  | .enterStopped _ => decide (x = .directive)
  | .conditionEvaluation => decide (x = .evaluation)
  | .conditionTrip _ => decide (x = .evaluation)
  | .conditionClear _ => decide (x = .evaluation)
  | .scanCompletion _ => decide (x = .scan)
  | .settlingEnd _ => decide (x = .scan)
  | .initComplete _ => decide (x = .scan)
  | .directiveStepEvent _ => decide (x = .directive)
  | .nudge => decide (x = .directive)
  | .slotSetup _ _ _ _ _ => decide (x = .directive)
  | .chainSetup _ _ _ _ _ => decide (x = .directive)
  | .conditionSetup _ _ _ _ _ _ _ => decide (x = .directive)
  | .supplySetup _ _ => decide (x = .directive)
  | .sensorSetup _ _ _ _ => decide (x = .directive)
  | .profileLoad _ _ => decide (x = .directive)
  | .profileLoadCompletion => decide (x = .directive)
  | .profileDrop _ _ => decide (x = .directive)
  | .calibrate _ => decide (x = .directive)
  | .calibrateCompletion _ => decide (x = .directive)
  | .selftest _ => decide (x = .directive)
  | .selftestCompletion _ => decide (x = .directive)
  | .captureStart _ _ _ _ _ => decide (x = .directive)
  | .captureStop _ => decide (x = .directive)
  | .releaseLatch _ _ => decide (x = .directive)
  | .pause _ _ => decide (x = .directive)
  | .pauseCompletion => decide (x = .directive)
  | .clearPending _ => decide (x = .directive)
  | .captureStepEvent _ => false
  | .burstPreparation => false
  | .burstCompletion => decide (x = .directive)
  | .statusBoardPublication => false
  | .spiWrite bytes =>
    decide (x = .hostWrite) || decide (x = .directive) || (decide (x = .warm) && carriesWarmReset bytes)
  | .spiQuadWrite bytes =>
    decide (x = .hostWrite) || decide (x = .directive) || (decide (x = .warm) && carriesWarmReset bytes)
  | .spiRead _ => false
  | .spiQuadRead _ => false
  | .runWritten1 => false
  | .runWritten0 => false
  | .warmReset => decide (x = .warm)
  | .ncauseClear _ => false
  | .stoppedClear => false
  | .nmask _ => false
  | .registerWrite _ _ => false

/-- A write transaction writes POSTED into an entry's state byte. -/
def writesPosted (bytes : List Byte) (e : BitVec 5) : Bool :=
  match bytes with
  | hi :: lo :: data => decide (byteAt (hi ++ lo) (data.take 256) (BitVec.ofNat 16 (entryAddr e)) = some 1)
  | _ => false

/-- The entries into which a command writes POSTED: a directive row posts at the cursor, a write transaction wherever its
bytes fall. -/
def postsAt (c : Instr) (s : State) (e : BitVec 5) : Bool :=
  match c with
  | .powerOnReset => false
  | .resetN => false
  | .resetRelease _ => false
  | .slotp => false
  | .slota => false
  | .driveLinkCut _ => false
  | .driveLinkCutClear _ => false
  | .transferCompletion _ => false
  | .thermalStep => false
  | .transmitWatchExpiry => false
  | .enterStopped _ => false
  | .conditionEvaluation => false
  | .conditionTrip _ => false
  | .conditionClear _ => false
  | .scanCompletion _ => false
  | .settlingEnd _ => false
  | .initComplete _ => false
  | .directiveStepEvent _ => false
  | .nudge => false
  | .slotSetup _ _ _ _ _ => decide (e = s.directives.cursor)
  | .chainSetup _ _ _ _ _ => decide (e = s.directives.cursor)
  | .conditionSetup _ _ _ _ _ _ _ => decide (e = s.directives.cursor)
  | .supplySetup _ _ => decide (e = s.directives.cursor)
  | .sensorSetup _ _ _ _ => decide (e = s.directives.cursor)
  | .profileLoad _ _ => decide (e = s.directives.cursor)
  | .profileLoadCompletion => false
  | .profileDrop _ _ => decide (e = s.directives.cursor)
  | .calibrate _ => decide (e = s.directives.cursor)
  | .calibrateCompletion _ => false
  | .selftest _ => decide (e = s.directives.cursor)
  | .selftestCompletion _ => false
  | .captureStart _ _ _ _ _ => decide (e = s.directives.cursor)
  | .captureStop _ => decide (e = s.directives.cursor)
  | .releaseLatch _ _ => decide (e = s.directives.cursor)
  | .pause _ _ => decide (e = s.directives.cursor)
  | .pauseCompletion => false
  | .clearPending _ => decide (e = s.directives.cursor)
  | .captureStepEvent _ => false
  | .burstPreparation => false
  | .burstCompletion => false
  | .statusBoardPublication => false
  | .spiWrite bytes => writesPosted bytes e
  | .spiQuadWrite bytes => writesPosted bytes e
  | .spiRead _ => false
  | .spiQuadRead _ => false
  | .runWritten1 => false
  | .runWritten0 => false
  | .warmReset => false
  | .ncauseClear _ => false
  | .stoppedClear => false
  | .nmask _ => false
  | .registerWrite _ _ => false

/-- A scan within the command can come upon the entry: POSTED before it, or by it; an ACTIVE entry is not posted over (R150). -/
def MayBeTaken (c : Instr) (s : State) (e : BitVec 5) : Prop :=
  entryState s.xm e = 1 ∨ (postsAt c s e = true ∧ entryState s.xm e ≠ 2)

/-! ### Frames of exchange memory -/

/-- The address lies in a run of `n` bytes from `a` on. -/
def InRun (a n x : Nat) : Prop :=
  a ≤ x ∧ x < a + n

/-- Every byte outside the named addresses reads as before. -/
def MemoryKept (written : Nat → Prop) (s t : State) : Prop :=
  ∀ x, ¬written x → memRead t.xm x = memRead s.xm x

/-- A 32-bit field, least significant byte at the lowest address. -/
def memRead32 (m : Memory) (a : Nat) : Stamp :=
  memRead16 m (a + 2) ++ memRead16 m a

/-! ### Directives -/

/-- The part can take a directive that the host posts at the cursor, and the one entry after it is not POSTED, so that the
scan stops behind it. -/
def ReadyForOne (s : State) : Prop :=
  resetHeld s = false ∧ s.governor.state ≠ .init ∧ s.directives.active = none ∧
    entryState s.xm s.directives.cursor ≠ 2 ∧ entryState s.xm (s.directives.cursor + 1) ≠ 1

/-- The address belongs to the entry at the cursor or is the cursor's mirror in the header. -/
def EntryOrMirror (s : State) (x : Nat) : Prop :=
  InRun (entryAddr s.directives.cursor) 32 x ∨ x = 6

/-- What the part itself writes at the completion of the entry at the cursor: its state, result code and result data (R149), and
the cursor's mirror. -/
def CompletionBytes (s : State) (x : Nat) : Prop :=
  x = entryAddr s.directives.cursor ∨ x = entryAddr s.directives.cursor + 3 ∨
    InRun (entryAddr s.directives.cursor + 24) 8 x ∨ x = 6

/-- The entry at the cursor before shows a state, a result code and result data. -/
def EntryShows (s t : State) (state : Byte) (why : ResultCode) (data : List Byte) : Prop :=
  entryState t.xm s.directives.cursor = state ∧
    memRead t.xm (entryAddr s.directives.cursor + 3) = why.code ∧
    memBytes t.xm (entryAddr s.directives.cursor + 24) 8 = (data ++ zeros 8).take 8

/-- The directive at the cursor has completed (R155): its entry written, no directive active, the cursor advanced with its
mirror, the cause DIRECTIVE set, over the causes given, where the entry asks for it. -/
def CompletedOver (causes : BitVec 6) (s t : State) (notify : Bool) (state : Byte) (why : ResultCode)
    (data : List Byte) : Prop :=
  EntryShows s t state why data ∧ t.directives = ⟨s.directives.cursor + 1, none⟩ ∧
    memRead t.xm 6 = (s.directives.cursor + 1).setWidth 8 ∧
    t.port = { s.port with reading := t.port.reading, ncause := if notify then causes ||| 4 else causes }

/-- A directive row's directive has completed, nothing else having set a cause; the row's transactions ended the read in
progress. -/
def CompletedAtCursor (s t : State) (notify : Bool) (state : Byte) (why : ResultCode) (data : List Byte) : Prop :=
  CompletedOver s.port.ncause s t notify state why data ∧ t.port.reading = none

/-- The directive at the cursor has become active (R153): its entry ACTIVE, cursor and mirror as before. -/
def ActiveAtCursor (s t : State) (a : ActiveDirective) : Prop :=
  EntryShows s t 2 .ok [] ∧ t.directives = ⟨s.directives.cursor, some a⟩ ∧
    t.port = { s.port with reading := none }

/-- A directive of a kind with a timer is active and the next step event completes it; the entry after its own is not
POSTED. -/
def CompletesNext (s : State) (kind : ActiveKind) (notify : Bool) : Prop :=
  resetHeld s = false ∧ s.directives.active = some ⟨kind, some 1, notify⟩ ∧
    entryState s.xm (s.directives.cursor + 1) ≠ 1

/-! ### The slot cycle and the stop -/

/-- R13, R62, R63: a chain's thermal record before and after the charge of an activation, by what is in force on it. -/
def Charged (code : Fin 4) (f : Force) (r r' : ThermalRecord) : Prop :=
  (∀ x, f = .on x →
    r' = { r with
      energy := min 4294967295 (r.energy + x.dissipation * 2 ^ (3 - code.val))
      assoc := some ⟨x.r, x.k⟩ }) ∧
  ((∀ x, f ≠ .on x) → r' = r)

/-- R14, R16: the header shows an activation of slot n: last activated slot number and next N. -/
def ActivationShown (t : State) (n : Half) : Prop :=
  memRead16 t.xm 4 = n ∧ memRead16 t.xm 2 = n + 1

/-- R18: leaving RUNNING cancels a pending slot, with its outcome at the given step stamp, and mutes every chain in force; the
marks of chains just cut end (log entry 27); the rest of the Slot Engine keeps its values. -/
def SlotsLeft (stamp : Stamp) (s t : State) : Prop :=
  t.slot = { s.slot with
    prepared := none
    inForce := .fill mutedByGovernor
    justCut := .fill false
    missCount := if s.slot.prepared.isSome then s.slot.carriedMiss else s.slot.missCount
    lastOutcomeMissed := if s.slot.prepared.isSome then false else s.slot.lastOutcomeMissed
    watch := t.slot.watch } ∧
  ∀ p, s.slot.prepared = some p →
    memBytes t.xm (outcomeAddr s.slot.n) 64 = outcomeBytes
      ⟨s.slot.n, .cancelled, p.missCount, stamp, p.budget, 0,
        .ofFn fun c => ⟨.muted, .governor, none, 0, .ok, none, (p.chains.get c).tj, none⟩⟩

/-- The outcome entry of a slot that leaving RUNNING cancels. -/
def CancelledEntry (s : State) (x : Nat) : Prop :=
  s.slot.prepared.isSome = true ∧ InRun (outcomeAddr s.slot.n) 64 x

/-- R146, R147: every line asserted, every pending word discarded, the word in transfer left to run, the rest of each
record kept. -/
def LinkSilenced (s t : State) : Prop :=
  t.drive.transfer = s.drive.transfer ∧
    ∀ c, t.drive.chains.get c = { s.drive.chains.get c with waiting := none, mute := true }

/-- R173 to R175: the entry to STOPPING from s, with each block's entry work, and on to STOPPED where nothing is in
flight; `causes` are those set before the stop. -/
def Stopped (why : StopReason) (stamp : Stamp) (causes : BitVec 6) (s t : State) : Prop :=
  SlotsLeft stamp s t ∧ LinkSilenced s t ∧
    t.capture = { s.capture with on := s.capture.on && s.capture.burst.isSome } ∧
    t.governor = { s.governor with
      state := if s.drive.transfer.isNone && s.capture.burst.isNone then .stopped else .stopping
      run := false
      reason := why
      quietSlot := true
      quietDrive := s.drive.transfer.isNone
      quietCapture := s.capture.burst.isNone } ∧
    t.port = { s.port with
      ncause := if s.drive.transfer.isNone && s.capture.burst.isNone then causes ||| 32 else causes }

/-! ### Bursts (R187, R188) -/

/-- The burst has landed, by the fill and the lost count, with the header's words and the threshold test; `also` names what
else the event writes. -/
def BurstLanded (b : List CaptureRecord) (also : Nat → Prop) (s t : State) : Prop :=
  let rd := memRead16 s.xm 0x003C
  let f := (s.capture.w - rd).toNat
  let gap : CaptureRecord := ⟨(b.headD (gapRecord 0 0)).stamp, 255, false, false, true, BitVec.ofNat 16 s.capture.lost⟩
  ∃ put : List CaptureRecord,
    (1024 < f → put = [] ∧ t.capture.lost = min 65535 (s.capture.lost + b.length)) ∧
    (f ≤ 1024 → s.capture.lost = 0 →
      put = b.take (min b.length (1024 - f)) ∧ t.capture.lost = b.length - put.length) ∧
    (f ≤ 1022 → 0 < s.capture.lost →
      put = gap :: b.take (min b.length (1023 - f)) ∧ t.capture.lost = b.length - (put.length - 1)) ∧
    (f = 1023 ∨ f = 1024 → 0 < s.capture.lost →
      put = [] ∧ t.capture.lost = min 65535 (s.capture.lost + b.length)) ∧
    t.capture.w = s.capture.w + BitVec.ofNat 16 put.length ∧
    (∀ i, ∀ h : i < put.length,
      memBytes t.xm (0x2000 + 8 * ((s.capture.w + BitVec.ofNat 16 i).toNat % 1024)) 8 = captureBytes put[i]) ∧
    memRead16 t.xm 0x000C = t.capture.w ∧ (memRead16 t.xm 0x000E).toNat = t.capture.lost ∧
    MemoryKept (fun a => also a ∨ InRun 0x000C 4 a ∨
      ∃ i, i < put.length ∧ InRun (0x2000 + 8 * ((s.capture.w + BitVec.ofNat 16 i).toNat % 1024)) 8 a) s t ∧
    (f ≤ 1024 → (t.capture.w - rd).toNat ≤ 1024) ∧
    (t.capture.above = true ↔ s.capture.threshold < (t.capture.w - rd).toNat)

/-- The causes after the threshold test of a burst: CAPTURE where the fill has risen above the threshold. -/
def landedCauses (s t : State) : BitVec 6 :=
  if t.capture.above = true ∧ s.capture.above = false then s.port.ncause ||| 8 else s.port.ncause

/-! ### What the host reads at the offsets of R190 -/

/-- An outcome entry at an address. -/
def OutcomeAt (m : Memory) (a : Nat) (o : SlotOutcome) : Prop :=
  memRead16 m a = o.tag ∧ memRead m (a + 2) = o.status.code ∧ memRead m (a + 3) = byteOf o.missCount ∧
    memRead32 m (a + 4) = o.stamp ∧ memRead16 m (a + 8) = u16 o.budget ∧ memRead16 m (a + 10) = u16 o.budgetUsed ∧
    (∀ c : Chain, let b := a + 12 + 12 * c.val
      let x := o.chains.get c
      memRead m b = x.state.code ∧ memRead m (b + 1) = x.reason.code ∧ memRead16 m (b + 2) = powerField x.grant ∧
        memRead m (b + 4) = byteOf x.atten ∧ memRead m (b + 5) = x.result.code ∧
        memRead16 m (b + 6) = powerField x.cth ∧ memRead16 m (b + 8) = i16 x.tj ∧
        memRead16 m (b + 10) = powerField x.clamped) ∧
    ∀ i, 60 ≤ i → i < 64 → memRead m (a + i) = 0

/-- A fault record at an address. -/
def FaultAt (m : Memory) (a : Nat) (f : FaultRecord) : Prop :=
  (memRead m a).getLsbD 0 = f.present ∧ (memRead m a).getLsbD 1 = f.released ∧ (memRead m a).toNat < 4 ∧
    memRead m (a + 1) = byteOf f.condId ∧ memRead16 m (a + 2) = f.slot ∧ memRead32 m (a + 4) = f.stamp ∧
    memRead16 m (a + 8) = u16 f.rise ∧ memRead16 m (a + 10) = i16 f.tj ∧ memRead16 m (a + 12) = i16 f.tm ∧
    memRead16 m (a + 14) = u16 f.detector ∧ memRead m (a + 16) = f.state.code ∧
    memRead m (a + 17) = f.reason.code ∧ memRead16 m (a + 18) = powerField f.grant ∧
    memRead m (a + 20) = (if f.ackKnown then 1 else 0) ∧ memRead m (a + 21) = f.ackWord ∧
    memRead m (a + 22) = byteOf f.latchCount ∧ ∀ i, 23 ≤ i → i < 64 → memRead m (a + i) = 0

/-- A capture record at an address. -/
def RecordAt (m : Memory) (a : Nat) (r : CaptureRecord) : Prop :=
  memRead32 m a = r.stamp ∧ memRead m (a + 4) = r.tag ∧
    (∀ i, i < 8 → (memRead m (a + 5)).getLsbD i =
      ((decide (i = 0) && r.implausible) || (decide (i = 1) && r.held) || (decide (i = 7) && r.gap))) ∧
    memRead16 m (a + 6) = r.value

/-- The status board, published in a state. -/
def BoardAt (m : Memory) (s : State) : Prop :=
  memRead m 0x0040 = s.governor.state.code ∧ memRead m 0x0041 = s.governor.reason.code ∧
    (∀ i, i < 8 → (memRead m 0x0042).getLsbD i =
      ((decide (i = 0) && s.sensors.valid && !s.sensors.held) || (decide (i = 1) && s.sensors.valid) ||
        (decide (i = 2) && s.sensors.held))) ∧
    memRead m 0x0043 = (if s.capture.on then 1 else 0) ∧ memRead32 m 0x0044 = s.thermal.steps ∧
    memRead16 m 0x0048 = s.slot.n ∧ memRead16 m 0x004A = u16 s.supply.lastBudget ∧
    (∀ ch : Fin 11, ch.val < 5 → (memRead m 0x004C).getLsbD ch.val = s.sensors.readings[ch].implausible) ∧
    (memRead m 0x004C).toNat < 32 ∧
    (∀ ch : Fin 11, let a := 0x0050 + 6 * ch.val
      memRead16 m a = s.sensors.readings[ch].raw.setWidth 16 ∧
        memRead16 m (a + 2) = u16 s.sensors.readings[ch].corrected ∧
        memRead16 m (a + 4) = i16 s.sensors.readings[ch].value) ∧
    (∀ c : Chain, let a := 0x00A0 + 16 * c.val
      let r := s.thermal.chains.get c
      memRead16 m a = u16 r.rise ∧ memRead16 m (a + 2) = i16 r.tj ∧ memRead16 m (a + 4) = i16 r.tm ∧
        memRead16 m (a + 6) = u16 r.power ∧ memRead16 m (a + 8) = powerField (s.slot.lastCeiling.get c) ∧
        memRead16 m (a + 10) = powerField (s.slot.inForce.get c).force.grant ∧
        memRead m (a + 12) = (s.slot.inForce.get c).force.state.code ∧
        memRead m (a + 13) = (s.slot.inForce.get c).reason.code ∧
        (memRead m (a + 14)).getLsbD 0 = r.substituted ∧
        (memRead m (a + 14)).getLsbD 1 = (s.drive.chains.get c).cut ∧ (memRead m (a + 14)).toNat < 4 ∧
        memRead m (a + 15) = 0) ∧
    (∀ id : Fin 19, memRead m (0x00E0 + id.val) = (condState s id).code) ∧
    (∀ a, InRun 0x004D 3 a ∨ InRun 0x0092 14 a ∨ InRun 0x00F3 265 a → memRead m a = 0) ∧
    memRead32 m 0x01FC = s.thermal.steps

/-! ### The energy ledger (R74) -/

/-- The energy that a command charges to a chain, in eighths of a microjoule: an activation taken charges what is then in
force. -/
def chargeOf (c : Chain) (i : Instr) (s t : State) : Nat :=
  if raises i .activate = true ∧ t.slot.n ≠ s.slot.n then
    match (t.slot.inForce.get c).force with
    | .on r => r.dissipation * 2 ^ (3 - s.slot.lengthCode.val)
    | .off => 0
    | .muted => 0
  else 0

/-- The step power that a command forms for a chain: a thermal step taken forms one. -/
def stepPowerOf (c : Chain) (s t : State) : Nat :=
  if t.thermal.steps ≠ s.thermal.steps then (t.thermal.chains.get c).power else 0

/-- A run of commands without a power-on reset and without a charge that saturates the accumulator, with the energy charged
to a chain and the sum of its step powers. -/
inductive Ledger (c : Chain) (s : State) : State → Nat → Nat → Prop
  | start : Ledger c s s 0 0
  | next (i : Instr) {t u : State} {charged powers : Nat} : Ledger c s t charged powers → i ≠ .powerOnReset →
      exec i t = .next u →
      (raises i .activate = true → (t.thermal.chains.get c).energy + chargeOf c i t u ≤ 4294967295) →
      Ledger c s u (charged + chargeOf c i t u) (powers + stepPowerOf c t u)

/-! ### Invariants -/

/-- R183: exchange memory is in canonical form, and what no structure uses reads 0 (R178). -/
def MapLaw (s : State) : Prop :=
  Memory.wf s.xm ∧
    ∀ a, InRun 0x0D00 0x300 a ∨ InRun 0x1800 0x800 a ∨ 0x4000 ≤ a → memRead s.xm a = 0

/-- R182, R183: the header shows layout version 1, N, the cursor, the step counter, W and the lost count as their owners
hold them. -/
def HeaderLaw (s : State) : Prop :=
  memRead16 s.xm 0x0000 = 1 ∧ memRead16 s.xm 0x0002 = s.slot.n ∧
    memRead s.xm 0x0006 = s.directives.cursor.setWidth 8 ∧ memRead32 s.xm 0x0008 = s.thermal.steps ∧
    memRead16 s.xm 0x000C = s.capture.w ∧ (memRead16 s.xm 0x000E).toNat = s.capture.lost

/-- R151: an entry reads ACTIVE only at the cursor, and exactly while a directive is active. -/
def ActiveEntryLaw (s : State) : Prop :=
  ∀ e, entryState s.xm e = 2 ↔ s.directives.active.isSome ∧ e = s.directives.cursor

/-- R60, R72: the estimator's ranges, and Tj = Tm + X; with the ranges of what it reads. -/
def ThermalLaw (s : State) : Prop :=
  (∀ c, let t := s.thermal.chains.get c
    t.energy ≤ 4294967295 ∧ t.rise ≤ 16383 ∧ t.power ≤ 65535 ∧ -2560 ≤ t.tm ∧ t.tm ≤ 11200 ∧ t.tj = t.tm + t.rise) ∧
  (∀ c, -2560 ≤ (s.config.get c).fallback ∧ (s.config.get c).fallback ≤ 11200) ∧
  (∀ ch : Fin 5, -2560 ≤ s.sensors.readings[ch.val].value ∧ s.sensors.readings[ch.val].value ≤ 11200)

/-- R102, R107: only stuck-drive entries are LATCHED and they never stand in TRIPPED or HOLDOFF; a chain's cut request is
raised exactly while its JT entry acts or its SD entry is LATCHED. -/
def CutLaw (s : State) : Prop :=
  (∀ id : Fin 19, condState s id = .latched → id.val < 16 ∧ id.val % 4 = 2) ∧
  (∀ c, (condState s (chainEntry c 2)).acting = false) ∧
  ∀ c, s.supervisor.cutRequest.get c =
    ((condState s (chainEntry c 0)).acting || decide (condState s (chainEntry c 2) = .latched))

/-- R144: a line is asserted whenever the governor is not RUNNING, the chain's cut request is raised, the chain is drive-link
cut, or it is MUTED in force or in the pending slot. -/
def MuteLaw (s : State) : Prop :=
  ∀ c, s.governor.state ≠ .running ∨ s.supervisor.cutRequest.get c = true ∨ (s.drive.chains.get c).cut = true ∨
    (s.slot.inForce.get c).force.state = .muted ∨
    (∃ p, s.slot.prepared = some p ∧ (p.chains.get c).verdict.state = .muted) →
    (s.drive.chains.get c).mute = true

/-- R126: the table is held exactly outside SCANNING; outside INIT it is valid; in INIT the unit scans and no directive is
active (R164). -/
def HoldLaw (s : State) : Prop :=
  (s.sensors.held = true ↔ s.sensors.mode ≠ .scanning) ∧
  (s.governor.state ≠ .init → s.sensors.valid = true) ∧
  (s.governor.state = .init → s.sensors.mode = .scanning ∧ s.directives.active = none)

/-- R80, R86: every profile slot that is present holds a validated image. -/
def StoreLaw (s : State) : Prop :=
  ∀ j : Fin 16, ∀ im, s.store.slots[j] = some im → im.valid = true

/-- R20, R79: a slot is pending only in RUNNING, and outside RUNNING every chain is MUTED in force. R17: a chain marked
as just cut is MUTED in force with the reason CUT or LOCK, in RUNNING (the mark is the model's, log entry 27). -/
def PendingLaw (s : State) : Prop :=
  (s.governor.state ≠ .running → s.slot.prepared = none ∧ ∀ c, (s.slot.inForce.get c).force = .muted) ∧
  ∀ c, s.slot.justCut.get c = true → s.governor.state = .running ∧
    (s.slot.inForce.get c = ⟨.muted, .cut⟩ ∨ s.slot.inForce.get c = ⟨.muted, .lock⟩)

/-- R170, R175, R176: RUN is 1 in RUNNING and 0 in IDLE, STOPPING and STOPPED; the cause STOPPED is set exactly in STOPPED;
in STOPPING the indications not raised say what is in flight, and something is. R146, R147: outside RUNNING no word is
pending; the link is idle in INIT and STOPPED, and a word in transfer in IDLE moves no current result. -/
def GovernorLaw (s : State) : Prop :=
  (s.governor.state = .running → s.governor.run = true) ∧
  (s.governor.state = .idle ∨ s.governor.state = .stopping ∨ s.governor.state = .stopped → s.governor.run = false) ∧
  (causeSet .stopped s = true ↔ s.governor.state = .stopped) ∧
  (s.governor.state = .stopping →
    s.governor.quietSlot = true ∧ s.governor.quietDrive = s.drive.transfer.isNone ∧
      s.governor.quietCapture = s.capture.burst.isNone ∧ (s.drive.transfer.isSome ∨ s.capture.burst.isSome)) ∧
  (s.governor.state ≠ .running → ∀ c, (s.drive.chains.get c).waiting = none) ∧
  (s.governor.state = .init ∨ s.governor.state = .stopped → s.drive.transfer = none) ∧
  (s.governor.state = .idle → ∀ x, s.drive.transfer = some x → x.reports = false)

/-- The bounds of a chain ON (R37, R40 to R45): a grant within the attenuator's reach of the clamped request and under the
floored ceiling, the attenuation their difference, every power in its range. -/
def OnRecord.Bounded (r : OnRecord) : Prop :=
  r.grant ≤ r.clamped ∧ r.clamped - 127 ≤ r.grant ∧ r.grant ≤ r.cth ∧ (r.atten : Int) = r.clamped - r.grant ∧
    -200 ≤ r.grant ∧ r.clamped ≤ 112 ∧ -80 ≤ r.cth ∧ r.cth ≤ 120

/-- The entry's action holds a power under its cap: MT, OS, EH (R40). -/
def capsPower (id : Fin 19) : Bool :=
  decide (id.val = 16) || decide (id.val < 16 ∧ id.val % 2 = 1)

/-- R41 to R45, R57: every chain ON in force or in the pending slot is bounded, and the pending slot's budget used is the
sum of the currents of its chains ON and does not exceed its effective budget; with the ranges of the floors and caps
(R26, R93). -/
def DecisionLaw (s : State) : Prop :=
  (∀ c, -80 ≤ (s.config.get c).floor ∧ (s.config.get c).floor ≤ 120) ∧
  (∀ id : Fin 19, capsPower id = true → -200 ≤ s.supervisor.entries[id].cap ∧ s.supervisor.entries[id].cap ≤ 120) ∧
  (∀ c r, (s.slot.inForce.get c).force = .on r → r.Bounded) ∧
  ∀ p, s.slot.prepared = some p →
    p.budgetUsed ≤ p.budget ∧
      p.budgetUsed = (p.chains.get 0).verdict.current + (p.chains.get 1).verdict.current +
        (p.chains.get 2).verdict.current + (p.chains.get 3).verdict.current ∧
      ∀ c r, (p.chains.get c).verdict = .on r → r.Bounded

end Sys2Proof.Machine
end

