-- ==== Sys2Proof/Certificates/Slice0/Obligations.lean ====
section
/-! DEFINITION. The statements for the provers: one per group of rules, each over every state that meets its hypotheses. A
command's own statement says that `exec` answers a next state, what that state holds, and what it leaves alone. -/

open Sys2Proof Sys2Proof.Machine

/-! ### The machine as a whole -/

/-- The front command is taken with the queue's rest; on an empty queue the part idles (the model's choice, log entry 3). -/
def Obligations.StepRunsTheFrontCommand : Prop :=
  (∀ (c : Instr) (rest : List Instr) (s : State),
    step { s with pending := c :: rest } = exec c { s with pending := rest }) ∧
  ∀ s : State, s.pending = [] → step s = .next s

/-- R168: the power-on reset and the release of either held reset. That State.reset is the part released and a power-on reset
the same part held is the model's choice (log entry 14); that POWER_ON_RESET keeps the level of RESET_N is deduced (log entry
21); the values the spec leaves open are those of log entries 10 and 11. -/
def Obligations.PowerOnResetAndRelease : Prop :=
  (∀ s : State, exec .powerOnReset s =
    .next { State.reset with pins := ⟨true, s.pins.resetLow⟩, pending := s.pending }) ∧
  (∀ s : State, exec (.resetRelease .supplies) s = .next { s with pins := ⟨false, s.pins.resetLow⟩ }) ∧
  ∀ s : State, exec (.resetRelease .resetN) s = .next { s with pins := ⟨s.pins.suppliesLow, false⟩ }

/-- R24, R26, R46, R47, R77, R91, R95, R118, R135, R148, R166, R167, R183, R184, R186: what the spec gives for a
power-on reset; that no chain is marked as just cut is the model's (log entry 27). -/
def Obligations.ResetStateHoldsTheStatedValues : Prop :=
  State.reset.slot.n = 0 ∧ State.reset.slot.prepared = none ∧
  (∀ c, State.reset.slot.inForce.get c = ⟨.muted, .governor⟩) ∧
  State.reset.slot.missCount = 0 ∧ State.reset.slot.carriedMiss = 0 ∧ State.reset.slot.lastOutcomeMissed = false ∧
  State.reset.slot.lengthCode = 0 ∧ State.reset.slot.holdLimit = 2 ∧ State.reset.slot.watchPeriod = 5 ∧
  State.reset.slot.watch = 5 ∧ (∀ c, State.reset.slot.lastCeiling.get c = none) ∧ (∀ c, State.reset.slot.justCut.get c = false) ∧
  (∀ c, State.reset.config.get c = ⟨8000, 40, 6080⟩) ∧ State.reset.supply = ⟨3000, 3000⟩ ∧
  State.reset.thermal.steps = 0 ∧ (∀ c, State.reset.thermal.chains.get c = ⟨0, none, 0, 0, 6080, true, 6080⟩) ∧
  (∀ j : Fin 16, State.reset.store.slots[j] = none) ∧ State.reset.store.buffer = none ∧
  (∀ id : Fin 19, condState State.reset id = .clear ∧ State.reset.supervisor.entries[id].elapsed = 0) ∧
  (∀ c : Chain, let e k := State.reset.supervisor.entries[chainEntry c k]
    ((e 0).trip = 9600 ∧ (e 0).dwell = 2 ∧ (e 0).recovery = 8320 ∧ (e 0).hold = 250) ∧
    ((e 1).trip = 6720 ∧ (e 1).dwell = 25 ∧ (e 1).recovery = 6080 ∧ (e 1).hold = 250 ∧ (e 1).cap = 80) ∧
    ((e 2).trip = 400 ∧ (e 2).dwell = 3) ∧ ((e 3).dwell = 5 ∧ (e 3).hold = 25 ∧ (e 3).cap = 68)) ∧
  State.reset.supervisor.entries[16] = ⟨3072, 250, 2816, 1250, 72, .clear, 0⟩ ∧
  State.reset.supervisor.entries[17] = ⟨3500, 2, 3000, 250, 2000, .clear, 0⟩ ∧
  State.reset.supervisor.entries[18] = ⟨3300, 1, 3450, 250, 1500, .clear, 0⟩ ∧
  (∀ c, State.reset.supervisor.cutRequest.get c = false ∧
    State.reset.supervisor.faults.get c = ⟨false, false, 0, 0, 0, 0, 0, 0, 0, .off, .none, some 0, false, 0, 0⟩ ∧
    State.reset.supervisor.latchCount.get c = 0) ∧
  State.reset.sensors.mode = .scanning ∧ State.reset.sensors.offset = 0 ∧ State.reset.sensors.gain = 4096 ∧
  (∀ ch : Fin 5, State.reset.sensors.pairs[ch] = ⟨-2560, 13107⟩) ∧
  (∀ ch : Fin 11, State.reset.sensors.readings[ch].raw = 0 ∧ State.reset.sensors.readings[ch].corrected = 0 ∧
    State.reset.sensors.readings[ch].value = 0) ∧
  State.reset.sensors.valid = false ∧ State.reset.sensors.held = false ∧ State.reset.sensors.settleCount = 0 ∧
  State.reset.sensors.measurements = [] ∧
  (∀ c, State.reset.drive.chains.get c = ⟨none, none, ⟨false, 0⟩, .acknowledged, 0, 0, false, true⟩) ∧
  State.reset.drive.transfer = none ∧ State.reset.directives = ⟨0, none⟩ ∧
  State.reset.capture.on = false ∧ State.reset.capture.sources = [] ∧ State.reset.capture.decimation = 1 ∧
  State.reset.capture.threshold = 0 ∧ State.reset.capture.count = 0 ∧ State.reset.capture.w = 0 ∧
  State.reset.capture.lost = 0 ∧ State.reset.capture.above = false ∧ State.reset.capture.burst = none ∧
  State.reset.governor = ⟨.init, false, .none, 0, false, false, false⟩ ∧
  State.reset.port.ncause = 0 ∧ State.reset.port.nmask = 0 ∧ State.reset.port.reading = none ∧
  State.reset.port.incoming = none ∧
  memRead16 State.reset.xm 0 = 1 ∧ memBytes State.reset.xm 0x0040 448 = boardBytes State.reset ∧
  ∀ a, ¬InRun 0x0000 2 a → ¬InRun 0x0040 448 a → memRead State.reset.xm a = 0

/-- Every invariant stated below holds after a power-on reset. -/
def Obligations.InvariantsHoldAtReset : Prop :=
  MapLaw State.reset ∧ HeaderLaw State.reset ∧ ActiveEntryLaw State.reset ∧ ThermalLaw State.reset ∧
    CutLaw State.reset ∧ MuteLaw State.reset ∧ HoldLaw State.reset ∧ StoreLaw State.reset ∧ PendingLaw State.reset ∧
    GovernorLaw State.reset ∧ DecisionLaw State.reset

/-- No command stops the part, none touches the queue of those that wait, and only the three reset commands move the reset
pins. -/
def Obligations.EveryCommandAnswersAndKeepsTheQueue : Prop :=
  ∀ (c : Instr) (s : State), ∃ t, exec c s = .next t ∧ t.pending = s.pending ∧
    (c ≠ .powerOnReset → c ≠ .resetN → (∀ source, c ≠ .resetRelease source) → t.pins = s.pins)

/-- R168, R4: while a reset is held no other command does anything; outside RUNNING a strobe is ignored. That RESET_N going
low under a held reset, a power-on reset included, moves only its pin is deduced (log entry 21). -/
def Obligations.HeldResetsAndIdleStrobesShutOut : Prop :=
  (∀ (c : Instr) (s : State), resetHeld s = true → c ≠ .powerOnReset → c ≠ .resetN →
    (∀ source, c ≠ .resetRelease source) → exec c s = .next s) ∧
  (∀ s : State, resetHeld s = true → exec .resetN s = .next { s with pins := { s.pins with resetLow := true } }) ∧
  ∀ (c : Instr) (s : State), raises c .prepare = true ∨ raises c .activate = true → s.governor.state ≠ .running →
    exec c s = .next s

/-- R168, R24, R77, R91, R119, R135, R148, R165, R167, R183, R189: a warm reset, by GCTL or by RESET_N, keeps the step counter,
the estimator's energy, association, rise and power, the profile slots, the latches with their fault records and counts,
the calibration pair and the host's regions, and resets the rest (R183, R186). The pin that RESET_N holds is the model's
(log entries 14 and 21), as are the reset values of log entries 10 and 11. -/
def Obligations.WarmResetKeepsWhatItMust : Prop :=
  ∀ s : State, resetHeld s = false →
    ∃ t, exec .warmReset s = .next t ∧
      exec .resetN s = .next { t with pins := { s.pins with resetLow := true } } ∧
      t.slot = { State.reset.slot with inForce := t.slot.inForce } ∧
      (∀ c, t.slot.inForce.get c = ⟨.muted, if chainLatched s c then .lock else .governor⟩) ∧
      t.config = State.reset.config ∧ t.supply = State.reset.supply ∧ t.thermal.steps = s.thermal.steps ∧
      (∀ c, t.thermal.chains.get c = { s.thermal.chains.get c with
        tm := 6080, substituted := true, tj := 6080 + (s.thermal.chains.get c).rise }) ∧
      t.store = { s.store with buffer := none } ∧
      (∀ id : Fin 19, t.supervisor.entries[id] =
        { State.reset.supervisor.entries[id] with state := if condState s id = .latched then .latched else .clear }) ∧
      (∀ c, t.supervisor.cutRequest.get c = chainLatched s c) ∧
      (∀ c, chainLatched s c = true ↔ ∃ k, condState s (chainEntry c k) = .latched) ∧
      t.supervisor.faults = s.supervisor.faults ∧
      t.supervisor.latchCount = s.supervisor.latchCount ∧
      t.sensors = { State.reset.sensors with offset := s.sensors.offset, gain := s.sensors.gain } ∧
      t.drive = State.reset.drive ∧
      t.directives = ⟨0, none⟩ ∧ t.capture = { State.reset.capture with w := memRead16 s.xm 0x003C } ∧
      t.governor = State.reset.governor ∧
      t.port = ⟨0, 0, none, [], none⟩ ∧ t.pins = s.pins ∧ t.pending = s.pending ∧
      HeaderLaw t ∧ memRead16 t.xm 4 = 0 ∧ memBytes t.xm 0x0040 448 = boardBytes t ∧
      (∀ a, InRun 0x0400 0x400 a → memRead t.xm a = 0) ∧
      (∀ c, memBytes t.xm (faultAddr c) 64 = faultBytes (s.supervisor.faults.get c)) ∧
      (s.directives.active.isSome = true → EntryShows s t 4 .aborted []) ∧
      MemoryKept (fun a => InRun 0 16 a ∨ InRun 0x0040 448 a ∨ InRun 0x0400 0x400 a ∨ InRun 0x0C00 256 a ∨
        (s.directives.active.isSome = true ∧ (a = entryAddr s.directives.cursor ∨
          a = entryAddr s.directives.cursor + 3 ∨ InRun (entryAddr s.directives.cursor + 24) 8 a))) s t

/-! ### The slot cycle -/

/-- R5 to R11, R46, R49, R137: SLOTP reads the intent entry of N, forms the miss count, the status, the effective budget and
the decisions, and hands over one word per chain; the lines of chains decided MUTED are asserted and, where the lines stand
as R144 says, no others change (R144, R145). R1, R190: how a chain record reads; R8, R30: a held chain's record, OFF or MUTED
in force being not active and decided OFF; R49: the effective budget. R17: where the latest evaluation, of the SLOTP's own
instant, was taken first and has cut a chain, its decision ends as with the SLOTP first; whether the instant is the same is a
free value, and the mark `justCut` is the model's (log entry 27); that a decision MUTED for another reason keeps that reason
is the model's choice (log entry 37). -/
def Obligations.PrepareFormsThePendingSlot : Prop :=
  (∀ s : State, resetHeld s = false → s.governor.state = .running →
    let cut (c : Chain) : Bool :=
      s.slot.justCut.get c && s.supervisor.cutRequest.get c && Config.slotpAtEvaluation s.thermal.steps s.slot.n
    ∃ t p, ∃ r : GrantResult, exec .slotp s = .next t ∧ t.slot.prepared = some p ∧ p.n = s.slot.n ∧
      p.budget = effectiveBudget s ∧
      ((memRead16 s.xm (intentAddr s.slot.n) = s.slot.n ∧ memRead16 s.xm (intentAddr s.slot.n + 18) = s.slot.n) →
        p.status = .taken ∧ p.missCount = 0 ∧
          r = computeGrants s (effectiveBudget s) (.ofFn fun c => readChainRequest s.xm (intentAddr s.slot.n) c)) ∧
      (¬(memRead16 s.xm (intentAddr s.slot.n) = s.slot.n ∧ memRead16 s.xm (intentAddr s.slot.n + 18) = s.slot.n) →
        p.missCount = min 255 (s.slot.carriedMiss + 1) ∧
        (p.missCount ≤ s.slot.holdLimit → p.status = .held ∧
          r = computeGrants s (effectiveBudget s) (s.slot.inForce.mapIdx fun _ f => heldRequest f) ∧
          ∀ c, (s.slot.inForce.get c).force = .off ∨ (s.slot.inForce.get c).force = .muted →
            r.chains.get c = ⟨.off, .off, (s.thermal.chains.get c).tj⟩) ∧
        (s.slot.holdLimit < p.missCount → p.status = .missed ∧ r.used = 0 ∧
          ∀ c, r.chains.get c = ⟨.muted none none, .missed, (s.thermal.chains.get c).tj⟩ ∧ r.ceilings.get c = none)) ∧
      (∀ c, p.chains.get c =
        if cut c then cutDecision (s.slot.inForce.get c).reason (r.chains.get c) else r.chains.get c) ∧
      (let freed (c : Chain) : Nat := if cut c then (r.chains.get c).verdict.current else 0;
        p.budgetUsed = r.used - (freed 0 + freed 1 + freed 2 + freed 3)) ∧
      t.slot = { s.slot with
        prepared := t.slot.prepared, missCount := p.missCount, lastCeiling := r.ceilings, justCut := .fill false } ∧
      t.supply = { s.supply with lastBudget := effectiveBudget s } ∧
      (∀ c, (t.drive.chains.get c).current = (p.chains.get c).verdict.word) ∧
      (∀ c, (p.chains.get c).verdict.state = .muted → (t.drive.chains.get c).mute = true) ∧
      (∀ c, (s.drive.chains.get c).mute = true → (t.drive.chains.get c).mute = true) ∧
      (MuteLaw s → ∀ c, (t.drive.chains.get c).mute =
        ((s.drive.chains.get c).mute || decide ((p.chains.get c).verdict.state = .muted))) ∧
      t = { s with slot := t.slot, supply := t.supply, drive := t.drive }) ∧
  (∀ (why : Reason) (d : Decision),
    (∀ r, d.verdict = .on r → cutDecision why d = ⟨.muted (some r.clamped) (some r.cth), why, d.tj⟩) ∧
    (d.verdict = .off → cutDecision why d = ⟨.muted none none, why, d.tj⟩) ∧
    (∀ x y, d.verdict = .muted x y → cutDecision why d = d)) ∧
  (∀ s : State,
    let acts (id : Fin 19) : Prop := (id.val = 17 ∨ id.val = 18) ∧ (condState s id = .tripped ∨ condState s id = .holdoff)
    effectiveBudget s ≤ s.supply.configured ∧
    (∀ id, acts id → effectiveBudget s ≤ s.supervisor.entries[id].cap.toNat) ∧
    (effectiveBudget s = s.supply.configured ∨
      ∃ id, acts id ∧ effectiveBudget s = s.supervisor.entries[id].cap.toNat)) ∧
  (∀ (m : Memory) (a : Nat) (c : Chain), let q := readChainRequest m a c
    let code := memRead m (a + 3 + 4 * c.val)
    (q.active = false ↔ memRead m (a + 2 + 4 * c.val) = 0) ∧
    ((code.extractLsb' 5 3).toNat ≤ 3 → q.priority = (code.extractLsb' 5 3).toNat) ∧
    (3 < (code.extractLsb' 5 3).toNat → q.priority = 3) ∧ q.profile = (code.extractLsb' 0 5).toNat ∧
    q.power = (memRead16 m (a + 4 + 4 * c.val)).toInt ∧ q.mark = false) ∧
  ∀ f : InForce,
    (∀ r, f.force = .on r → heldRequest f = ⟨true, r.priority, r.profile, r.clamped, r.clampMark⟩) ∧
    (f.force = .off ∨ f.force = .muted → (heldRequest f).active = false)

/-- R28, R29, R31, R37, R40, R41, R43, R44: what the stages make of a chain at a prepare. R40, R41: the candidate is the least
of clamped request, floored ceiling and the caps in force. R42, R50, R51, R57: the candidates of stage 5 go to the allocator,
whose grants and mutes are the decisions, and the budget used is the current of the chains left ON. R46: the last ceiling is
that of stage 3, and NONE for a chain that leaves at stage 1. R1, R29: index j below 16 names slot j, one above 15 none. -/
def Obligations.DecisionsFollowTheStages : Prop :=
  (∀ (s : State) (budget : Nat) (qs : PerChain ChainRequest) (c : Chain), DecisionLaw s →
    let q := qs.get c
    let d := (computeGrants s budget qs).chains.get c
    let ceiling := (computeGrants s budget qs).ceilings.get c
    d.tj = (s.thermal.chains.get c).tj ∧
    (q.active = false → d.verdict = .off ∧ d.reason = .off ∧ ceiling = none) ∧
    (q.active = true → chainLatched s c = true →
      d.verdict = .muted none none ∧ d.reason = .lock ∧ ceiling = none) ∧
    (q.active = true → chainLatched s c = false → (condState s (chainEntry c 0)).acting = true →
      d.verdict = .muted none none ∧ d.reason = .cut ∧ ceiling = none) ∧
    (q.active = true → chainLatched s c = false → (condState s (chainEntry c 0)).acting = false →
      (s.drive.chains.get c).cut = true → d.verdict = .muted none none ∧ d.reason = .driveLink ∧ ceiling = none) ∧
    (q.active = true → chainLatched s c = false → (condState s (chainEntry c 0)).acting = false →
      (s.drive.chains.get c).cut = false → namedImage s q.profile = none →
      d.verdict = .muted none none ∧ d.reason = .noProfile ∧ ceiling = none) ∧
    ∀ image, q.active = true → chainLatched s c = false → (condState s (chainEntry c 0)).acting = false →
      (s.drive.chains.get c).cut = false → namedImage s q.profile = some image →
      let clamped := clamp q.power (-200) 112
      let cth := chainCeiling s c image
      let power := candidatePower s c clamped cth
      ceiling = some cth ∧
      (127 < clamped - power → d.verdict = .muted (some clamped) (some cth) ∧ d.reason = .attenRange) ∧
      (clamped - power ≤ 127 →
        (d.verdict = .muted (some clamped) (some cth) ∧ d.reason = .supply) ∨
        ∃ r, d.verdict = .on r ∧ r.clamped = clamped ∧ r.cth = cth ∧ r.grant ≤ power ∧
          (r.atten : Int) = clamped - r.grant ∧ r.profile = q.profile ∧ r.priority = q.priority ∧
          r.clampMark = (q.mark || decide (q.power < -200) || decide (112 < q.power)) ∧
          r.current = curveAt image.currents r.grant ∧ r.dissipation = curveAt image.dissipations r.grant ∧
          r.r = image.r ∧ r.k = image.k ∧
          d.reason = (if r.grant = clamped then (if r.clampMark then .requestClamp else .none)
            else if r.grant < power then .supply else if power = cth then .thermal else .protection))) ∧
  (∀ (s : State) (j : Fin 16), namedImage s j.val = s.store.slots[j]) ∧
  (∀ (s : State) (j : Nat), 15 < j → namedImage s j = none) ∧
  (∀ (s : State) (c : Chain), chainLatched s c = true ↔ ∃ k, condState s (chainEntry c k) = .latched) ∧
  (∀ c k : Fin 4, (chainEntry c k).val = 4 * c.val + k.val) ∧
  (∀ x : CondState, x.acting = true ↔ x = .tripped ∨ x = .holdoff) ∧
  (∀ (s : State) (c : Chain) (clamped cth : Int), let power := candidatePower s c clamped cth
    let inForce (id : Fin 19) : Prop :=
      (id = chainEntry c 1 ∨ id = chainEntry c 3 ∨ id.val = 16) ∧ (condState s id = .tripped ∨ condState s id = .holdoff)
    power ≤ clamped ∧ power ≤ cth ∧ (∀ id, inForce id → power ≤ s.supervisor.entries[id].cap) ∧
    (power = clamped ∨ power = cth ∨ ∃ id, inForce id ∧ power = s.supervisor.entries[id].cap)) ∧
  ∀ (s : State) (budget : Nat) (qs : PerChain ChainRequest),
    let out := computeGrants s budget qs
    ∃ ks : List Candidate,
      ks.Pairwise (fun a b => a.chain < b.chain) ∧
      (∀ k, k ∈ ks ↔ (let q := qs.get k.chain
        q.active = true ∧ chainLatched s k.chain = false ∧ (condState s (chainEntry k.chain 0)).acting = false ∧
          (s.drive.chains.get k.chain).cut = false ∧ namedImage s q.profile = some k.image ∧
          k.priority = q.priority ∧ k.profile = q.profile ∧ k.clamped = clamp q.power (-200) 112 ∧
          k.mark = (q.mark || decide (q.power < -200) || decide (112 < q.power)) ∧
          k.cth = chainCeiling s k.chain k.image ∧ k.power = candidatePower s k.chain k.clamped k.cth ∧
          k.clamped - k.power ≤ 127)) ∧
      (∀ k ∈ ks, let d := out.chains.get k.chain
        (∀ g, (k, some g) ∈ allocate budget ks → ∃ r, d.verdict = .on r ∧ r.grant = g) ∧
        ((∀ g, (k, some g) ∉ allocate budget ks) →
          d.verdict = .muted (some k.clamped) (some k.cth) ∧ d.reason = .supply) ∧
        (sumAt Candidate.power ks ≤ budget → ∃ r, d.verdict = .on r ∧ r.grant = k.power)) ∧
      out.used = (out.chains.get 0).verdict.current + (out.chains.get 1).verdict.current +
        (out.chains.get 2).verdict.current + (out.chains.get 3).verdict.current

/-- R32: the curve lookup, its points, its monotony and its bounds. -/
def Obligations.CurveLookupInterpolates : Prop :=
  (∀ (v : Vector Nat 25) (p : Int), p ≤ -80 → curveAt v p = v[0]) ∧
  (∀ (v : Vector Nat 25) (p : Int), 112 ≤ p → curveAt v p = v[24]) ∧
  (∀ (v : Vector Nat 25) (i : Fin 24) (r : Fin 8), 0 < i.val ∨ 0 < r.val →
    v[i.val]'(by omega) ≤ v[i.val + 1]'(by omega) →
    (curveAt v (8 * i.val - 80 + r.val) : Int) =
      v[i.val]'(by omega) + (((v[i.val + 1]'(by omega) : Nat) - (v[i.val]'(by omega) : Nat) : Int) * r.val + 4) / 8) ∧
  (∀ (v : Vector Nat 25) (i : Fin 25), curveAt v (8 * i.val - 80) = v[i]) ∧
  (∀ im : ProfileImage, im.valid = true → ∀ p q : Int, p ≤ q →
    curveAt im.currents p ≤ curveAt im.currents q ∧ curveAt im.dissipations p ≤ curveAt im.dissipations q) ∧
  ∀ im : ProfileImage, im.valid = true → ∀ p : Int,
    curveAt im.currents p ≤ im.currents[24] ∧ curveAt im.dissipations p ≤ im.dissipations[24] ∧
      curveAt im.currents p ≤ 8000

/-- R34, R35, R36, R37: the allowed target rise, the dissipation allowance, the thermal ceiling, and the floor under it. -/
def Obligations.ThermalCeilingIsTheLargestFit : Prop :=
  (∀ (s : State) (c : Chain) (im : ProfileImage),
    let h := (s.config.get c).tsoft - (s.thermal.chains.get c).tm
    let dmax := dissipationAllowance (allowedTarget h (s.thermal.chains.get c).rise im.k) im.r
    (thermalCeiling im.dissipations dmax = none → chainCeiling s c im = (s.config.get c).floor) ∧
    ∀ p, thermalCeiling im.dissipations dmax = some p → chainCeiling s c im = max p (s.config.get c).floor) ∧
  (∀ h x k : Int, x ≤ h → 0 < k → allowedTarget h x k = clamp (x + ((h - x) * 65536) / k) 0 1048575) ∧
  (∀ h x k : Int, h < x → 0 < k → ∃ fall : Int,
    allowedTarget h x k = clamp (x - fall) 0 1048575 ∧ (x - h) * 65536 ≤ fall * k ∧ (fall - 1) * k < (x - h) * 65536) ∧
  (∀ target r : Int, 0 ≤ target → 0 < r →
    (dissipationAllowance target r : Int) = min ((target * 1000) / (r * 64)) 65535) ∧
  (∀ r : Int, 0 < r → dissipationAllowance 0 r = 0) ∧
  (∀ (d : Vector Nat 25) (dmax : Nat), curveAt d 112 ≤ dmax → thermalCeiling d dmax = some 120) ∧
  (∀ (d : Vector Nat 25) (dmax : Nat), dmax < curveAt d 112 → curveAt d (-80) ≤ dmax →
    ∃ p : Int, thermalCeiling d dmax = some p ∧ -80 ≤ p ∧ p ≤ 111 ∧ curveAt d p ≤ dmax ∧
      ∀ q : Int, p < q → q ≤ 111 → dmax < curveAt d q) ∧
  (∀ im : ProfileImage, im.valid = true → ∀ dmax : Nat, dmax < curveAt im.dissipations (-80) →
    thermalCeiling im.dissipations dmax = none) ∧
  (∀ im : ProfileImage, im.valid = true → ∀ (dmax : Nat) (p : Int), thermalCeiling im.dissipations dmax = some p →
    ∀ q : Int, -80 ≤ q → q ≤ 112 → (curveAt im.dissipations q ≤ dmax ↔ q ≤ p))

/-- R51 to R56: all candidates whole if they fit; else class by class, the first class that does not fit backed off together
by the smallest of 2, 4, ..., 96 that fits, or without its highest chains, and every class after it muted. -/
def Obligations.AllocationServesTheClassesInOrder : Prop :=
  ∀ (budget : Nat) (ks : List Candidate),
    let inClass (q : Nat) := ks.filter fun k => decide (k.priority = q)
    let need (q : Nat) := sumAt Candidate.power (inClass q)
    let before (q : Nat) := ((List.range q).map need).sum
    let backedOff (b : Nat) (k : Candidate) : Int := max (max (k.power - b) (k.clamped - 127)) (-200)
    (sumAt Candidate.power ks ≤ budget → allocate budget ks = ks.map fun k => (k, some k.power)) ∧
    (budget < sumAt Candidate.power ks → ∀ q, q ≤ 3 → before q ≤ budget → budget < before q + need q →
      let rem := budget - before q
      let failing := (inClass q).reverse
      ∃ n served, n ≤ failing.length ∧
        allocate budget ks =
          ((List.range q).flatMap fun p => (inClass p).map fun k => (k, some k.power)) ++
          ((failing.take n).map fun k => (k, none)) ++ served ++
          ((ks.filter fun k => decide (q < k.priority)).map fun k => (k, none)) ∧
        (∀ m, m < n → rem < sumAt Candidate.power (failing.drop m) ∧
          ∀ i, 1 ≤ i → i ≤ 48 → rem < sumAt (backedOff (2 * i)) (failing.drop m)) ∧
        ((sumAt Candidate.power (failing.drop n) ≤ rem ∧
            served = (failing.drop n).map fun k => (k, some k.power)) ∨
          (rem < sumAt Candidate.power (failing.drop n) ∧ ∃ i, 1 ≤ i ∧ i ≤ 48 ∧
            sumAt (backedOff (2 * i)) (failing.drop n) ≤ rem ∧
            (∀ j, 1 ≤ j → j < i → rem < sumAt (backedOff (2 * j)) (failing.drop n)) ∧
            served = (failing.drop n).map fun k => (k, some (backedOff (2 * i) k)))))

/-- R41 to R45, R57: every step keeps the bounds of grants, attenuations and budgets. -/
def Obligations.EveryStepKeepsDecisionsBounded : Prop :=
  StepKeeps DecisionLaw

/-- R12 to R15, R63, R140, R144, R145: SLOTA with a slot pending brings the decisions into force, charges the chains ON,
writes the outcome, moves the drive counts and settles the lines; R10, R27: what a decision reads as there. That a line is
released over an older in-force record, where a second prepare turned MUTED into ON and the result is not OK, is the model's
choice (log entry 33), as is that the marks of chains just cut end there (log entry 27). -/
def Obligations.ActivationBringsThePreparedSlotIntoForce : Prop :=
  (∀ (s : State) (p : Prepared), resetHeld s = false → s.governor.state = .running → s.slot.prepared = some p →
    ∃ t, exec .slota s = .next t ∧
      (∀ c, (p.chains.get c).verdict.state = .muted →
        t.slot.inForce.get c = ⟨.muted, (p.chains.get c).reason⟩) ∧
      (∀ c, (p.chains.get c).verdict.state ≠ .muted → (s.drive.chains.get c).fate = .acknowledged →
        t.slot.inForce.get c = ⟨(p.chains.get c).verdict.toForce, (p.chains.get c).reason⟩) ∧
      (∀ c, (p.chains.get c).verdict.state ≠ .muted → (s.drive.chains.get c).fate ≠ .acknowledged →
        t.slot.inForce.get c = s.slot.inForce.get c) ∧
      t.slot = { s.slot with
        n := s.slot.n + 1
        prepared := none
        inForce := t.slot.inForce
        carriedMiss := p.missCount
        lastOutcomeMissed := decide (p.status = .missed)
        watch := s.slot.watchPeriod
        justCut := .fill false } ∧
      (∀ c, Charged s.slot.lengthCode (t.slot.inForce.get c).force (s.thermal.chains.get c)
        (t.thermal.chains.get c)) ∧
      t.thermal.steps = s.thermal.steps ∧
      memBytes t.xm (outcomeAddr s.slot.n) 64 = outcomeBytes
        ⟨s.slot.n, p.status, p.missCount, s.thermal.steps, p.budget, p.budgetUsed,
          .ofFn fun c => ⟨(p.chains.get c).verdict.state, (p.chains.get c).reason, (p.chains.get c).verdict.grant,
            (p.chains.get c).verdict.atten, (s.drive.chains.get c).fate.result, (p.chains.get c).verdict.cth,
            (p.chains.get c).tj, (p.chains.get c).verdict.clamped⟩⟩ ∧
      ActivationShown t s.slot.n ∧
      MemoryKept (fun a => InRun (outcomeAddr s.slot.n) 64 a ∨ InRun 2 4 a) s t ∧
      t.port = { s.port with ncause :=
        if p.status = .missed ∧ s.slot.lastOutcomeMissed = false then s.port.ncause ||| 16 else s.port.ncause } ∧
      t.drive.transfer = s.drive.transfer ∧
      (∀ c, t.drive.chains.get c =
        { countResult (s.drive.chains.get c) with mute := muteReason t c }) ∧
      t = { s with slot := t.slot, thermal := t.thermal, drive := t.drive, port := t.port, xm := t.xm }) ∧
  (∀ r, let v := Verdict.on r
    v.state = .on ∧ v.toForce = .on r ∧ v.grant = some r.grant ∧ v.atten = r.atten ∧ v.cth = some r.cth ∧
      v.clamped = some r.clamped ∧ v.current = r.current) ∧
  (let v := Verdict.off;
    v.state = .off ∧ v.toForce = .off ∧ v.grant = none ∧ v.atten = 0 ∧ v.cth = none ∧ v.clamped = none ∧ v.current = 0) ∧
  ∀ clamped cth, let v := Verdict.muted clamped cth
    v.state = .muted ∧ v.toForce = .muted ∧ v.grant = none ∧ v.atten = 0 ∧ v.cth = cth ∧ v.clamped = clamped ∧ v.current = 0

/-- R16, R58, R145: SLOTA with no slot pending repeats what is in force; R27: what an in-force record reads as there.
That the marks of chains just cut end there is the model's choice (log entry 27). -/
def Obligations.OrphanActivationRepeatsWhatIsInForce : Prop :=
  (∀ s : State, resetHeld s = false → s.governor.state = .running → s.slot.prepared = none →
    ∃ t, exec .slota s = .next t ∧
      t.slot = { s.slot with
        n := s.slot.n + 1, watch := s.slot.watchPeriod, lastOutcomeMissed := false, justCut := .fill false } ∧
      (∀ c, Charged s.slot.lengthCode (s.slot.inForce.get c).force (s.thermal.chains.get c)
        (t.thermal.chains.get c)) ∧
      t.thermal.steps = s.thermal.steps ∧
      memBytes t.xm (outcomeAddr s.slot.n) 64 = outcomeBytes
        ⟨s.slot.n, .unprepared, s.slot.missCount, s.thermal.steps, s.supply.lastBudget,
          (s.slot.inForce.get 0).force.current + (s.slot.inForce.get 1).force.current +
            (s.slot.inForce.get 2).force.current + (s.slot.inForce.get 3).force.current,
          .ofFn fun c => ⟨(s.slot.inForce.get c).force.state, (s.slot.inForce.get c).reason,
            (s.slot.inForce.get c).force.grant, (s.slot.inForce.get c).force.atten, .ok,
            (s.slot.inForce.get c).force.cth, (s.thermal.chains.get c).tj, (s.slot.inForce.get c).force.clamped⟩⟩ ∧
      ActivationShown t s.slot.n ∧
      MemoryKept (fun a => InRun (outcomeAddr s.slot.n) 64 a ∨ InRun 2 4 a) s t ∧
      t.drive.transfer = s.drive.transfer ∧
      (∀ c, t.drive.chains.get c = { s.drive.chains.get c with mute := muteReason t c }) ∧
      t = { s with slot := t.slot, thermal := t.thermal, drive := t.drive, xm := t.xm }) ∧
  (∀ r, let f := Force.on r
    f.state = .on ∧ f.grant = some r.grant ∧ f.atten = r.atten ∧ f.cth = some r.cth ∧ f.clamped = some r.clamped ∧
      f.current = r.current) ∧
  ∀ f, f = Force.off ∨ f = Force.muted →
    f.grant = none ∧ f.atten = 0 ∧ f.cth = none ∧ f.clamped = none ∧ f.current = 0 ∧
      (f = .off → f.state = .off) ∧ (f = .muted → f.state = .muted)

/-- R3: N increases by one at each SLOTA in RUNNING, and otherwise changes only through a SLOT_SETUP, kind 0x01, that stood
POSTED or that the command posts, and resets; the header shows each change. -/
def Obligations.SlotCounterChangesOnlyWhereItMay : Prop :=
  (∀ s : State, resetHeld s = false → s.governor.state = .running →
    ∃ t, exec .slota s = .next t ∧ t.slot.n = s.slot.n + 1) ∧
  (∀ (c : Instr) (s t : State), exec c s = .next t → raises c .powerOn = false → raises c .warm = false →
    (raises c .directive = true → ∀ e, MayBeTaken c s e → entryKind t.xm e ≠ 1) →
    (raises c .activate = true → s.governor.state ≠ .running) → t.slot.n = s.slot.n) ∧
  (∀ (c : Instr) (s t : State), exec c s = .next t → t.slot.n ≠ s.slot.n → memRead16 t.xm 0x0002 = t.slot.n) ∧
  (∀ s t : State, exec .powerOnReset s = .next t → t.slot.n = 0) ∧
  ∀ s t : State, exec .warmReset s = .next t → resetHeld s = false → t.slot.n = 0

/-! ### The drive link and the mute lines -/

/-- R137, R138: a prepare places one word per chain, enabled at its attenuation for ON and (0, 0) for OFF and MUTED (R10), and
the arbiter serves the pending words from the lowest chain. That the word it takes or skips is its
chain's current word is deduced (log entry 18). -/
def Obligations.PrepareHandsOverTheWords : Prop :=
  (∀ s : State, resetHeld s = false → s.governor.state = .running →
    ∃ t p placed, exec .slotp s = .next t ∧ t.slot.prepared = some p ∧
      placed.transfer = s.drive.transfer.map (fun x => { x with reports := false }) ∧
      (∀ c, let r := s.drive.chains.get c
        let w := (p.chains.get c).verdict.word
        ((r.cut = true ∨ (∃ x, s.drive.transfer = some x ∧ x.chain = c) ∨ r.lastAck ≠ some w) →
          placed.chains.get c = { r with current := w, waiting := some w, fate := .outstanding }) ∧
        (r.cut = false → (∀ x, s.drive.transfer = some x → x.chain ≠ c) → r.lastAck = some w →
          placed.chains.get c = { r with current := w, waiting := none, fate := .acknowledged })) ∧
      t.drive.transfer = (arbitrate placed).transfer ∧
      ∀ c, t.drive.chains.get c =
        { (arbitrate placed).chains.get c with mute := (t.drive.chains.get c).mute }) ∧
  (∀ r : OnRecord, (Verdict.on r).word = ⟨true, r.atten⟩) ∧ Verdict.off.word = ⟨false, 0⟩ ∧
  (∀ clamped cth, (Verdict.muted clamped cth).word = ⟨false, 0⟩) ∧
  (∀ d : DrivePort, d.transfer.isSome = true → arbitrate d = d) ∧
  (∀ (d : DrivePort) (c : Chain) (w : DriveWord), d.transfer = none → (d.chains.get c).waiting = some w →
    ((d.chains.get c).cut = true ∨ (d.chains.get c).lastAck ≠ some w) →
    (∀ b, b < c → ∀ x, (d.chains.get b).waiting = some x →
      (d.chains.get b).cut = false ∧ (d.chains.get b).lastAck = some x) →
    (arbitrate d).transfer = some ⟨c, w, false, true⟩ ∧
      (arbitrate d).chains.get c = { d.chains.get c with waiting := none } ∧
      (∀ b, c < b → (arbitrate d).chains.get b = d.chains.get b) ∧
      ∀ b, b < c → (arbitrate d).chains.get b =
        if (d.chains.get b).waiting.isSome then { d.chains.get b with waiting := none, fate := .acknowledged }
        else d.chains.get b) ∧
  ∀ d : DrivePort, d.transfer = none →
    (∀ b x, (d.chains.get b).waiting = some x → (d.chains.get b).cut = false ∧ (d.chains.get b).lastAck = some x) →
    (arbitrate d).transfer = none ∧
      ∀ b, (arbitrate d).chains.get b =
        if (d.chains.get b).waiting.isSome then { d.chains.get b with waiting := none, fate := .acknowledged }
        else d.chains.get b

/-- R139, R146, R147: the completion of the word in transfer by its acknowledge and attempt; in IDLE the current words and
results, the counts, the cut flags and the lines stay as they stood, and no other transfer starts; in STOPPING a NACK drops the word,
no transfer starts, and the Drive Port is quiet. That a current word dropped in STOPPING has the result FAILED is deduced
(log entry 17), as is that a current word whose chain's result stays is one that no longer reports (log entry 29). -/
def Obligations.TransferCompletionFollowsTheAcknowledge : Prop :=
  ∀ (s : State) (x : Transfer) (ack : Bool), resetHeld s = false → s.drive.transfer = some x →
    let r := s.drive.chains.get x.chain
    let acked : DrivePort := ⟨s.drive.chains.set x.chain
      { r with lastAck := some x.word, fate := if x.reports then .acknowledged else r.fate }, none⟩
    let dropped : DrivePort := ⟨s.drive.chains.set x.chain
      { r with fate := if x.reports then .failed else r.fate }, none⟩
    (s.governor.state ≠ .stopping →
      (ack = true → exec (.transferCompletion ack) s = .next { s with drive := arbitrate acked }) ∧
      (ack = false → x.retry = false → exec (.transferCompletion ack) s =
        .next { s with drive := { s.drive with transfer := some { x with retry := true } } }) ∧
      (ack = false → x.retry = true →
        exec (.transferCompletion ack) s = .next { s with drive := arbitrate dropped })) ∧
    (s.governor.state = .idle → GovernorLaw s → ∃ t, exec (.transferCompletion ack) s = .next t ∧
      (∀ c, t.drive.chains.get c = { s.drive.chains.get c with
        lastAck := if ack = true ∧ c = x.chain then some x.word else (s.drive.chains.get c).lastAck }) ∧
      t.drive.transfer = (if ack = false ∧ x.retry = false then some { x with retry := true } else none) ∧
      t = { s with drive := t.drive }) ∧
    (s.governor.state = .stopping → exec (.transferCompletion ack) s = .next { s with
      drive := if ack then acked else dropped
      governor := { s.governor with
        quietDrive := true
        state := if s.governor.quietSlot && s.governor.quietCapture then .stopped else .stopping }
      port := { s.port with ncause :=
        if s.governor.quietSlot && s.governor.quietCapture then s.port.ncause ||| 32 else s.port.ncause } })

/-- R140 to R143: the drive results of an activation move the counts; the third failure in a row cuts the drive link and the
eighth success in a row clears the cut. -/
def Obligations.DriveResultsCountAndCut : Prop :=
  WordFate.acknowledged.result = .ok ∧ WordFate.outstanding.result = .late ∧ WordFate.failed.result = .failed ∧
  ∀ (s : State) (p : Prepared), resetHeld s = false → s.governor.state = .running → s.slot.prepared = some p →
    ∃ t, exec .slota s = .next t ∧ ∀ c,
      let r := s.drive.chains.get c
      let r' := t.drive.chains.get c
      r'.waiting = r.waiting ∧ r'.lastAck = r.lastAck ∧ r'.current = r.current ∧ r'.fate = r.fate ∧
      (r.fate = .acknowledged → r'.failures = 0 ∧
        (r.cut = false → r'.cut = false ∧ r'.successes = r.successes ∧ exec (.driveLinkCutClear c) s = .next s) ∧
        (r.cut = true → r.successes ≠ 7 → r'.cut = true ∧ r'.successes = r.successes + 1) ∧
        (r.cut = true → r.successes = 7 → r'.cut = false ∧ r'.successes = 0 ∧
          exec (.driveLinkCutClear c) s = .next t)) ∧
      (r.fate ≠ .acknowledged → r'.failures = min 255 (r.failures + 1) ∧ r'.successes = 0 ∧
        (r.failures ≠ 2 → r'.cut = r.cut ∧ exec (.driveLinkCut c) s = .next s) ∧
        (r.failures = 2 → r'.cut = true ∧ r'.mute = true ∧
          ((p.chains.get c).verdict.state ≠ .muted → t.slot.inForce.get c = s.slot.inForce.get c) ∧
          (r.cut = false → exec (.driveLinkCut c) s = .next t)))

/-- R144: every step keeps each line asserted while a reason stands. R145: a line is released only by an activation in
RUNNING, and only where no reason stands after it; the module need not hold the in-force record's word then (the model's
choice, log entry 33). -/
def Obligations.EveryStepKeepsTheMuteLines : Prop :=
  StepKeeps MuteLaw ∧
  (∀ (s : State) (c : Chain), muteReason s c = true ↔ s.governor.state ≠ .running ∨ s.supervisor.cutRequest.get c = true ∨
    (s.drive.chains.get c).cut = true ∨ (s.slot.inForce.get c).force.state = .muted ∨
    ∃ p, s.slot.prepared = some p ∧ (p.chains.get c).verdict.state = .muted) ∧
  ∀ (i : Instr) (s t : State) (c : Chain), exec i s = .next t → (s.drive.chains.get c).mute = true →
    (t.drive.chains.get c).mute = false →
    raises i .activate = true ∧ s.governor.state = .running ∧ t.governor.state = .running ∧
      (t.slot.inForce.get c).force.state ≠ .muted ∧ t.supervisor.cutRequest.get c = false ∧
      (t.drive.chains.get c).cut = false ∧ t.slot.prepared = none

/-! ### Commands that stand for an inner step of another event (the model's choice, log entries 1 and 4) -/

/-- An inner step's command is its enclosing event exactly where that event brings the step about, and nothing elsewhere. -/
def Obligations.InnerStepsAreTheirEnclosingEvents : Prop :=
  (∀ s t c, exec .slota s = .next t →
    exec (.driveLinkCut c) s =
        (if (s.drive.chains.get c).cut = false ∧ (t.drive.chains.get c).cut = true then .next t else .next s) ∧
      exec (.driveLinkCutClear c) s =
        if (s.drive.chains.get c).cut = true ∧ (t.drive.chains.get c).cut = false then .next t else .next s) ∧
  (∀ s t, exec .thermalStep s = .next t →
    exec .transmitWatchExpiry s = if s.slot.watch ≠ 0 ∧ t.slot.watch = 0 then .next t else .next s) ∧
  (∀ s t id, exec .conditionEvaluation s = .next t →
    exec (.conditionTrip id) s = (if condState t id ≠ condState s id ∧
      (condState t id = .tripped ∨ condState t id = .latched) then .next t else .next s) ∧
    exec (.conditionClear id) s = if condState t id = .clear ∧ (condState s id = .tripped ∨ condState s id = .holdoff ∨
      condState s id = .latched) then .next t else .next s) ∧
  (∀ s t raw, HoldLaw s → exec (.scanCompletion raw) s = .next t →
    exec (.settlingEnd raw) s =
        (if s.sensors.mode = .settling ∧ t.sensors.mode = .scanning then .next t else .next s) ∧
      exec (.initComplete raw) s = if s.governor.state = .init ∧ t.governor.state ≠ .init then .next t else .next s) ∧
  (∀ s t, exec (.captureStepEvent false) s = .next t →
    exec .burstPreparation s = if s.capture.burst = none ∧ t.capture.burst ≠ none then .next t else .next s) ∧
  (∀ s m, (∃ j n k, s.directives.active = some ⟨.profileLoad j, some n, k⟩ ∧ n ≤ 1) →
    exec .profileLoadCompletion s = exec (.directiveStepEvent m) s) ∧
  (∀ s m, (∃ j n k, s.directives.active = some ⟨.pause j, some n, k⟩ ∧ n ≤ 1) →
    exec .pauseCompletion s = exec (.directiveStepEvent m) s) ∧
  (∀ s m, (∃ n k, s.directives.active = some ⟨.calibrate, some n, k⟩ ∧ n ≤ 1) →
    exec (.calibrateCompletion m) s = exec (.directiveStepEvent m) s) ∧
  (∀ s m, (∃ n k, s.directives.active = some ⟨.selftest, some n, k⟩ ∧ n ≤ 1) →
    exec (.selftestCompletion m) s = exec (.directiveStepEvent m) s) ∧
  (∀ s, (¬∃ j n k, s.directives.active = some ⟨.profileLoad j, some n, k⟩ ∧ n ≤ 1) →
    exec .profileLoadCompletion s = .next s) ∧
  (∀ s, (¬∃ j n k, s.directives.active = some ⟨.pause j, some n, k⟩ ∧ n ≤ 1) → exec .pauseCompletion s = .next s) ∧
  (∀ s m, (¬∃ n k, s.directives.active = some ⟨.calibrate, some n, k⟩ ∧ n ≤ 1) →
    exec (.calibrateCompletion m) s = .next s) ∧
  (∀ s m, (¬∃ n k, s.directives.active = some ⟨.selftest, some n, k⟩ ∧ n ≤ 1) →
    exec (.selftestCompletion m) s = .next s) ∧
  (∀ s ack, s.drive.transfer = none → exec (.transferCompletion ack) s = .next s) ∧
  (∀ s, s.capture.burst = none → exec .burstCompletion s = .next s) ∧
  ∀ s raw, s.sensors.mode = .calibrating ∨ s.sensors.mode = .selftesting → exec (.scanCompletion raw) s = .next s

/-! ### Governor states and the fault stop -/

/-- R170, R171, R172, R18, R146: RUN written 1 and 0 in each governor state. That a cut chain keeps the successes it has
counted is the model's choice (log entry 32); that the current results stay until the next prepare, by a word in transfer that
no longer reports, is deduced (log entry 29). -/
def Obligations.RunWritesFollowTheGovernorState : Prop :=
  ∀ s : State, resetHeld s = false →
    let port := { s.port with reading := none }
    (s.governor.state = .init →
      exec .runWritten1 s = .next { s with governor := { s.governor with run := true }, port := port } ∧
      exec .runWritten0 s = .next { s with governor := { s.governor with run := false }, port := port }) ∧
    (s.governor.state = .idle →
      exec .runWritten1 s = .next { s with
        governor := { s.governor with run := true, state := .running }
        slot := { s.slot with watch := s.slot.watchPeriod }
        port := port } ∧
      exec .runWritten0 s = .next { s with port := port }) ∧
    (s.governor.state = .stopping ∨ s.governor.state = .stopped →
      exec .runWritten1 s = .next { s with port := port } ∧ exec .runWritten0 s = .next { s with port := port }) ∧
    (s.governor.state = .running → exec .runWritten1 s = .next { s with port := port } ∧
      ∃ t, exec .runWritten0 s = .next t ∧ SlotsLeft s.thermal.steps s t ∧ t.slot.watch = s.slot.watch ∧
        t.drive.transfer = s.drive.transfer.map (fun x => { x with reports := false }) ∧
        (∀ c, t.drive.chains.get c = { s.drive.chains.get c with waiting := none, mute := true }) ∧
        t.governor = { s.governor with state := .idle, run := false } ∧
        MemoryKept (CancelledEntry s) s t ∧
        t = { s with slot := t.slot, drive := t.drive, governor := t.governor, port := port, xm := t.xm })

/-- R176, R184, R185: writes to NCAUSE, NMASK, PARTID and GSTATE, the causes' bits, and the level of NOTIFY_N. That a
STOPPED_CLEAR outside STOPPED clears its bit and moves nothing is the model's reading of the row (log entry 16). -/
def Obligations.RegisterWritesAndTheNotifyLine : Prop :=
  (∀ (s : State) (bits : Half), resetHeld s = false →
    let cleared : State := { s with port :=
      { s.port with reading := none, ncause := s.port.ncause &&& ~~~(bits.setWidth 6) } }
    (s.governor.state ≠ .stopped ∨ bits.getLsbD 5 = false → exec (.ncauseClear bits) s = .next cleared) ∧
    (s.governor.state = .stopped → bits.getLsbD 5 = true → exec (.ncauseClear bits) s =
      .next { cleared with governor := { s.governor with state := .idle, run := false } })) ∧
  (∀ s : State, resetHeld s = false → s.governor.state = .stopped → exec .stoppedClear s = .next { s with
    port := { s.port with reading := none, ncause := s.port.ncause &&& 0x1F }
    governor := { s.governor with state := .idle, run := false } }) ∧
  (∀ s : State, resetHeld s = false → s.governor.state ≠ .stopped → exec .stoppedClear s = .next { s with
    port := { s.port with reading := none, ncause := s.port.ncause &&& 0x1F } }) ∧
  (∀ s : State, resetHeld s = false → s.governor.state ≠ .stopped → causeSet .stopped s = false →
    exec .stoppedClear s = .next { s with port := { s.port with reading := none } }) ∧
  (∀ (s : State) (v : Half), resetHeld s = false →
    exec (.nmask v) s = .next { s with port := { s.port with reading := none, nmask := v.setWidth 6 } }) ∧
  (∀ (s : State) (r : ReadOnlyRegister) (v : Half), resetHeld s = false →
    exec (.registerWrite r v) s = .next { s with port := { s.port with reading := none } }) ∧
  [Cause.ready, .cond, .directive, .capture, .miss, .stopped].map Cause.mask = [1, 2, 4, 8, 16, 32] ∧
  (∀ (k : Cause) (s : State), causeSet k s = true ↔ s.port.ncause &&& k.mask ≠ 0) ∧
  ∀ s : State, notifyAsserted s = true ↔ ∃ k, causeSet k s = true ∧ s.port.nmask &&& k.mask ≠ 0

/-- R21, R22, R173, R174, R175: the thermal step that brings the transmit watch to 0 with a chain ON in force stops the part;
on which side of the step its stamp lies the manual leaves open (log entry 7). That TRANSMIT_WATCH_EXPIRY is that thermal
step is the model's choice (log entry 1). -/
def Obligations.WatchExpiryStopsThePart : Prop :=
  ∀ (s : State) (c : Chain), resetHeld s = false → s.governor.state = .running →
    (s.slot.inForce.get c).force.state = .on → s.slot.watch = 1 →
    ∃ t stamp, (stamp = s.thermal.steps ∨ stamp = s.thermal.steps + 1) ∧
      exec .thermalStep s = .next t ∧ exec .transmitWatchExpiry s = .next t ∧ t.slot.watch = 0 ∧
      Stopped .slotFlowLost stamp s.port.ncause s t ∧ MemoryKept (fun a => InRun 8 4 a ∨ CancelledEntry s a) s t ∧
      t = { s with
        slot := t.slot, thermal := t.thermal, drive := t.drive, capture := t.capture, governor := t.governor
        port := t.port, xm := t.xm }

/-- R174, R175: in STOPPING the completion that raises the third quiet indication takes the governor to STOPPED and sets the
cause STOPPED; a burst lands there as elsewhere (R187, R188), capture goes off, and a waiting CAPTURE_STOP completes (R163).
ENTER_STOPPED is that completion and otherwise nothing (the model's choice, log entry 1). -/
def Obligations.ThirdQuietIndicationEntersStopped : Prop :=
  (∀ (s : State) (x : Transfer) (ack : Bool), resetHeld s = false → s.governor.state = .stopping →
    s.governor.quietSlot = true → s.governor.quietDrive = false → s.governor.quietCapture = true →
    s.drive.transfer = some x →
    ∃ t, exec (.enterStopped ack) s = .next t ∧ exec (.transferCompletion ack) s = .next t ∧
      t.governor = { s.governor with state := .stopped, quietDrive := true } ∧ t.drive.transfer = none ∧
      t.port = { s.port with ncause := s.port.ncause ||| 32 } ∧
      t = { s with drive := t.drive, governor := t.governor, port := t.port }) ∧
  (∀ (s : State) (b : List CaptureRecord), resetHeld s = false → s.governor.state = .stopping →
    s.capture.burst = some b → b ≠ [] → b.length ≤ 8 → s.capture.lost ≤ 65535 →
    let third : Prop := s.governor.quietSlot = true ∧ s.governor.quietDrive = true
    let quiet (t : State) : Prop :=
      t.capture = { s.capture with
        on := false, w := t.capture.w, lost := t.capture.lost, above := t.capture.above, burst := none } ∧
      t.governor = { s.governor with quietCapture := true, state := t.governor.state } ∧
      (third → t.governor.state = .stopped) ∧ (¬third → t.governor.state = .stopping) ∧
      ((third ∧ s.governor.quietCapture = false) → ∀ ack, exec (.enterStopped ack) s = .next t)
    let causes (t : State) : BitVec 6 := if t.governor.state = .stopped then landedCauses s t ||| 32 else landedCauses s t
    ((∀ a, s.directives.active = some a → a.kind ≠ .captureStop) →
      ∃ t, exec .burstCompletion s = .next t ∧ BurstLanded b (fun _ => False) s t ∧ quiet t ∧
        t.port = { s.port with ncause := causes t } ∧
        t = { s with capture := t.capture, governor := t.governor, port := t.port, xm := t.xm }) ∧
    ∀ notify, s.directives.active = some ⟨.captureStop, none, notify⟩ →
      entryState s.xm (s.directives.cursor + 1) ≠ 1 →
      ∃ t, exec .burstCompletion s = .next t ∧ BurstLanded b (CompletionBytes s) s t ∧ quiet t ∧
        CompletedOver (causes t) s t notify 3 .ok [] ∧ t.port.reading = s.port.reading ∧
        t = { s with
          capture := t.capture, governor := t.governor, directives := t.directives, port := t.port, xm := t.xm }) ∧
  ∀ (s : State) (ack : Bool), s.governor.state ≠ .stopping ∨ s.governor.quietSlot = false ∨
    (s.governor.quietDrive = false ∧ s.governor.quietCapture = false) → exec (.enterStopped ack) s = .next s

/-- R170, R175, R176, R20, R79: RUN, the cause STOPPED and the quiet indications stay as the governor state calls for; a slot
is pending only in RUNNING, and outside RUNNING every chain is MUTED in force. R146, R147: outside RUNNING no word is
pending; the link is idle in INIT and STOPPED, and a word in transfer in IDLE moves no current result (its mark is the model's,
log entry 29). R17: a chain marked as just cut is MUTED in force with the reason CUT or LOCK, in RUNNING (the mark is the
model's, log entry 27). -/
def Obligations.EveryStepKeepsTheGovernorLaw : Prop :=
  StepKeeps GovernorLaw ∧ StepKeeps PendingLaw

/-! ### Thermal estimation -/

/-- R61, R65 to R67, R69, R70, R72, R21: a thermal step's records, step counter and transmit watch. -/
def Obligations.ThermalStepFormsTheRecords : Prop :=
  ∀ s : State, resetHeld s = false →
    ∃ t, exec .thermalStep s = .next t ∧ t.thermal.steps = s.thermal.steps + 1 ∧
      memRead32 t.xm 8 = s.thermal.steps + 1 ∧
      (∀ c, let r := s.thermal.chains.get c
        let r' := t.thermal.chains.get c
        let reading := s.sensors.readings[c.val]
        let blind := s.sensors.valid = false ∨ (condState s (chainEntry c 3)).acting = true ∨ reading.implausible = true
        r'.power = min (r.energy / 32) 65535 ∧ r'.energy = r.energy - 32 * r'.power ∧ r'.assoc = r.assoc ∧
        (r.assoc = none → r'.rise = 0) ∧
        (∀ a, r.assoc = some a → (r'.rise : Int) =
          let target : Int := min (((r'.power : Int) * a.r * 64 + 500) / 1000) 16383
          clamp (r.rise + ((target - r.rise) * a.k + 32768) / 65536) 0 16383) ∧
        (blind → r'.tm = (s.config.get c).fallback ∧ r'.substituted = true) ∧
        (¬blind → r'.tm = reading.value ∧ r'.substituted = false) ∧
        r'.tj = r'.tm + r'.rise) ∧
      (s.governor.state = .running → (∃ c, (s.slot.inForce.get c).force.state = .on) →
        t.slot.watch = s.slot.watch - 1) ∧
      (s.governor.state ≠ .running ∨ (∀ c, (s.slot.inForce.get c).force.state ≠ .on) →
        t.slot.watch = s.slot.watch) ∧
      (s.governor.state ≠ .running ∨ (∀ c, (s.slot.inForce.get c).force.state ≠ .on) ∨ s.slot.watch ≠ 1 →
        MemoryKept (InRun 8 4) s t ∧
        t = { s with thermal := t.thermal, slot := { s.slot with watch := t.slot.watch }, xm := t.xm })

/-- R66: the step power, and what stays behind in the accumulator. -/
def Obligations.StepPowerIsWholeMilliwatts : Prop :=
  (∀ (s t : State) (c : Chain), resetHeld s = false → exec .thermalStep s = .next t →
    let e := (s.thermal.chains.get c).energy
    let r' := t.thermal.chains.get c
    r'.power = min (e / 32) 65535 ∧ r'.energy = e - 32 * r'.power ∧ 32 * r'.power ≤ e ∧
      (e < 2097152 → r'.energy = e % 32) ∧ (e < 32 → r'.power = 0 ∧ r'.energy = e)) ∧
  ∀ d : Nat, d ≤ 65535 → stepPower (4 * (d * 8)) = d ∧ 4 * (d * 8) - 32 * stepPower (4 * (d * 8)) = 0

/-- R68: the rise of an associated chain moves towards the target, with the resolution and the rest that the rounding
gives. -/
def Obligations.RiseMovesTowardsItsTarget : Prop :=
  (∀ (s t : State) (c : Chain) (a : Assoc), resetHeld s = false → exec .thermalStep s = .next t →
    (s.thermal.chains.get c).assoc = some a → (t.thermal.chains.get c).rise =
      movedRise (s.thermal.chains.get c).rise (targetRise (t.thermal.chains.get c).power (some a)) (some a)) ∧
  (∀ (p : Nat) (a : Assoc), 0 ≤ targetRise p (some a) ∧ targetRise p (some a) ≤ 16383) ∧
  ∀ (a : Assoc), 1 ≤ a.k → a.k ≤ 65535 → ∀ (x y : Nat), x ≤ 16383 → y ≤ 16383 →
    (movedRise x y (some a) : Int) = x + (((y : Int) - x) * a.k + 32768) / 65536 ∧
    min x y ≤ movedRise x y (some a) ∧ movedRise x y (some a) ≤ max x y ∧
    (x < y → (x < movedRise x y (some a) ↔ 32768 ≤ (y - x) * a.k)) ∧
    (y < x → (movedRise x y (some a) < x ↔ 32768 < (x - y) * a.k)) ∧
    (∃ n z, z * a.k ≤ y * a.k + 32768 ∧ y * a.k ≤ z * a.k + 32768 ∧
      ∀ m, n ≤ m → (fun x => movedRise x y (some a))^[m] x = z) ∧
    (a.k ≤ 32768 → 0 < x → 0 < movedRise x 0 (some a))

/-- R74: over every run of commands without a power-on reset and without a saturated charge, the energy charged is 32 times
the sum of the step powers plus what the accumulator gained; less than 32 stays after a step below 65535. -/
def Obligations.EnergyIsConserved : Prop :=
  (∀ (c : Chain) (s t : State) (charged powers : Nat), Ledger c s t charged powers →
    (s.thermal.chains.get c).energy + charged = 32 * powers + (t.thermal.chains.get c).energy) ∧
  (∀ (s t : State) (c : Chain), resetHeld s = false → exec .thermalStep s = .next t →
    (t.thermal.chains.get c).power < 65535 → (t.thermal.chains.get c).energy < 32) ∧
  ∀ (s t : State) (c : Chain), exec .powerOnReset s = .next t → (t.thermal.chains.get c).energy = 0

/-- R63, R72, R76, R78: between steps, activations and resets the estimate, the accumulator and the association stand. -/
def Obligations.EstimateStandsBetweenItsEvents : Prop :=
  (∀ (i : Instr) (s t : State), exec i s = .next t → raises i .thermal = false → raises i .activate = false →
    raises i .powerOn = false → raises i .warm = false → t.thermal = s.thermal) ∧
  (∀ (i : Instr) (s t : State), exec i s = .next t → raises i .thermal = false → raises i .powerOn = false →
    ∀ c, (t.thermal.chains.get c).rise = (s.thermal.chains.get c).rise ∧
      (t.thermal.chains.get c).power = (s.thermal.chains.get c).power) ∧
  ∀ (i : Instr) (s t : State), exec i s = .next t → raises i .powerOn = false →
    ∀ c, (s.thermal.chains.get c).assoc.isSome = true → (t.thermal.chains.get c).assoc.isSome = true

/-- R60, R72: the ranges of the thermal record, with Tj = Tm + X. -/
def Obligations.EveryStepKeepsTheThermalRanges : Prop :=
  StepKeeps ThermalLaw

/-! ### Protection conditions -/

/-- R98 to R101, R103: one evaluation of an entry in each state, by the side its quantity stands on; a LATCHED entry stays
(R102) and a skipped one keeps state and count (R97), which for one with dwell 0 is deduced (log entry 23). -/
def Obligations.EntriesFollowTheStateMachine : Prop :=
  (∀ s t : State, resetHeld s = false → exec .conditionEvaluation s = .next t → ∀ id : Fin 19,
    t.supervisor.entries[id] = evaluateEntry id s.supervisor.entries[id] (entrySide s id s.supervisor.entries[id])) ∧
  ∀ (id : Fin 19) (e : CondEntry),
    let count := min 65535 (e.elapsed + 1)
    let tripped : CondEntry :=
      { e with state := if id.val < 16 ∧ id.val % 4 = 2 then .latched else .tripped, elapsed := 0 }
    let cleared : CondEntry := { e with state := .clear, elapsed := 0 }
    evaluateEntry id e none = e ∧
    (∀ x, e.state = .latched → evaluateEntry id e (some x) = e) ∧
    (∀ x, e.state ≠ .latched → e.dwell = 0 → evaluateEntry id e (some x) = cleared) ∧
    (e.dwell ≠ 0 →
      (e.state = .clear →
        evaluateEntry id e (some .trip) = (if e.dwell = 1 then tripped else { e with state := .alert, elapsed := 1 }) ∧
        ∀ x, x ≠ .trip → evaluateEntry id e (some x) = cleared) ∧
      (e.state = .alert →
        evaluateEntry id e (some .trip) = (if e.dwell ≤ count then tripped else { e with elapsed := count }) ∧
        ∀ x, x ≠ .trip → evaluateEntry id e (some x) = cleared) ∧
      (e.state = .tripped →
        evaluateEntry id e (some .recovery) =
          (if e.hold ≤ 1 then cleared else { e with state := .holdoff, elapsed := 1 }) ∧
        ∀ x, x ≠ .recovery → evaluateEntry id e (some x) = { e with elapsed := 0 }) ∧
      (e.state = .holdoff →
        evaluateEntry id e (some .recovery) = (if e.hold ≤ count then cleared else { e with elapsed := count }) ∧
        ∀ x, x ≠ .recovery → evaluateEntry id e (some x) = { e with state := .tripped, elapsed := 0 }))

/-- R94, R97: the side on which an evaluation finds each of the 19 entries, and when it skips it. -/
def Obligations.SidesAndSkippedEntries : Prop :=
  ∀ s : State,
    let rising (e : CondEntry) (q : Int) : Side := if e.trip ≤ q then .trip else if q ≤ e.recovery then .recovery else .band
    let blind : Prop := s.sensors.valid = false ∨ s.sensors.held = true
    (∀ c : Chain, let e k := s.supervisor.entries[chainEntry c k]
      let side k := entrySide s (chainEntry c k) (e k)
      let tm := s.sensors.readings[c.val]
      side 0 = some (rising (e 0) (s.thermal.chains.get c).tj) ∧
      (blind → side 1 = none ∧ side 2 = none ∧ side 3 = none) ∧
      (¬blind → side 1 = (if tm.implausible then none else some (rising (e 1) tm.value)) ∧
        ((side 2 = some .trip ↔ (s.slot.inForce.get c).force.state ≠ .on ∧
          (e 2).trip ≤ s.sensors.readings[7 + c.val].corrected) ∧ (side 2 ≠ some .trip → side 2 = some .band)) ∧
        side 3 = some (if tm.implausible then .trip else .recovery))) ∧
    (let e k := s.supervisor.entries[k]
      let side (k : Fin 19) := entrySide s k (e k)
      (blind → side 16 = none ∧ side 17 = none ∧ side 18 = none) ∧
      (¬blind →
        side 16 = (if s.sensors.readings[4].implausible then none
          else some (rising (e 16) s.sensors.readings[4].value)) ∧
        side 17 = some (rising (e 17) s.sensors.readings[6].value) ∧
        side 18 = some (if s.sensors.readings[5].value ≤ (e 18).trip then .trip
          else if (e 18).recovery ≤ s.sensors.readings[5].value then .recovery else .band)))

/-- R96, R104, R107: an evaluation moves every entry by its side, brings the cut requests up to date, sets COND for a notable
change, and without a new latch or a lost-sensors stop touches nothing else but what a raised cut request mutes. A latch writes
its own chain's record alone (R109), and a line is asserted where a cut request stands (R144). That a request already raised
keeps its reason though JT clears as SD latches is the model's choice (log entry 31), as is the mark of a chain
just cut (log entry 27). -/
def Obligations.EvaluationMovesTheTable : Prop :=
  ∀ s : State, resetHeld s = false →
    ∃ t, exec .conditionEvaluation s = .next t ∧
      let latched (c : Chain) : Prop :=
        condState s (chainEntry c 2) ≠ .latched ∧ condState t (chainEntry c 2) = .latched
      (∀ id : Fin 19, t.supervisor.entries[id] =
        evaluateEntry id s.supervisor.entries[id] (entrySide s id s.supervisor.entries[id])) ∧
      (∀ c, t.supervisor.cutRequest.get c =
        ((condState t (chainEntry c 0)).acting || decide (condState t (chainEntry c 2) = .latched))) ∧
      (causeSet .cond t = true ↔ causeSet .cond s = true ∨ ∃ id : Fin 19,
        (condState t id ≠ condState s id ∧ (condState t id = .tripped ∨ condState t id = .latched)) ∨
        (condState t id = .clear ∧
          (condState s id = .tripped ∨ condState s id = .holdoff ∨ condState s id = .latched))) ∧
      (¬((s.governor.state = .idle ∨ s.governor.state = .running) ∧ ∀ c, condState t (chainEntry c 3) = .tripped) →
        t.governor = s.governor ∧ t.capture = s.capture ∧
        t.port = { s.port with ncause := t.port.ncause } ∧ (t.port.ncause ||| 2 = s.port.ncause ||| 2) ∧
        t.slot = { s.slot with inForce := t.slot.inForce, prepared := t.slot.prepared, justCut := t.slot.justCut } ∧
        (∀ c, (t.supervisor.cutRequest.get c = false ∨ s.supervisor.cutRequest.get c = true) →
          t.slot.inForce.get c = s.slot.inForce.get c) ∧
        (∀ c, t.slot.justCut.get c = (t.supervisor.cutRequest.get c && !s.supervisor.cutRequest.get c &&
          decide (s.governor.state = .running))) ∧
        (s.slot.prepared = none → t.slot.prepared = none) ∧
        (∀ p, s.slot.prepared = some p → ∃ q, t.slot.prepared = some q ∧
          q = { p with chains := q.chains, budgetUsed := q.budgetUsed } ∧
          ∀ c, (t.supervisor.cutRequest.get c = false ∨ s.supervisor.cutRequest.get c = true) →
            q.chains.get c = p.chains.get c) ∧
        ((∀ c, t.supervisor.cutRequest.get c = false ∨ s.supervisor.cutRequest.get c = true) →
          t.slot.prepared = s.slot.prepared) ∧
        MemoryKept (fun a => ∃ c, latched c ∧ InRun (faultAddr c) 64 a) s t ∧
        t.drive.transfer = s.drive.transfer ∧
        (∀ c, t.drive.chains.get c = { s.drive.chains.get c with mute := (t.drive.chains.get c).mute } ∧
          ((s.drive.chains.get c).mute = true ∨ t.supervisor.cutRequest.get c = true →
            (t.drive.chains.get c).mute = true)) ∧
        (MuteLaw s → ∀ c, (t.drive.chains.get c).mute =
          ((s.drive.chains.get c).mute || t.supervisor.cutRequest.get c))) ∧
      ((s.governor.state = .idle ∨ s.governor.state = .running) → (∀ c, condState t (chainEntry c 3) = .tripped) →
        LinkSilenced s t) ∧
      (∀ c, ¬latched c → t.supervisor.faults.get c = s.supervisor.faults.get c ∧
        t.supervisor.latchCount.get c = s.supervisor.latchCount.get c) ∧
      MemoryKept (fun a => (∃ c, latched c ∧ InRun (faultAddr c) 64 a) ∨ CancelledEntry s a) s t ∧
      t = { s with
        slot := t.slot, supervisor := t.supervisor, drive := t.drive, capture := t.capture, governor := t.governor
        port := t.port, xm := t.xm }

/-- R98, R99, R101, R104, R107, R17, R144: an evaluation at which an entry trips; a junction-over trip alone raises its
chain's cut request, mutes it in force and in the pending slot with reason CUT, and asserts its line. That a decision so
changed keeps its clamped request and ceiling is deduced (log entry 20); that a decision MUTED for another reason keeps that
reason (log entry 37) and that CONDITION_TRIP is that evaluation (log entry 1) are the model's choices. -/
def Obligations.ConditionTripsAtTheDwell : Prop :=
  (∀ (s : State) (id : Fin 19), resetHeld s = false →
    let e := s.supervisor.entries[id]
    entrySide s id e = some .trip → e.dwell ≠ 0 →
    ((e.state = .clear ∧ e.dwell = 1) ∨ (e.state = .alert ∧ e.dwell ≤ min 65535 (e.elapsed + 1)) ∨
      e.state = .holdoff) →
    ∃ t, exec .conditionEvaluation s = .next t ∧ exec (.conditionTrip id) s = .next t ∧
      condState t id = (if e.state ≠ .holdoff ∧ id.val < 16 ∧ id.val % 4 = 2 then .latched else .tripped) ∧
      t.supervisor.entries[id].elapsed = 0 ∧ causeSet .cond t = true) ∧
  ∀ (s t : State) (c : Chain), exec .conditionEvaluation s = .next t →
    s.supervisor.cutRequest.get c = false → condState s (chainEntry c 2) = condState t (chainEntry c 2) →
    condState t (chainEntry c 0) = .tripped →
    ¬((s.governor.state = .idle ∨ s.governor.state = .running) ∧ ∀ d, condState t (chainEntry d 3) = .tripped) →
    condState s (chainEntry c 0) ≠ .tripped → condState s (chainEntry c 2) ≠ .latched →
    t.supervisor.cutRequest.get c = true ∧ t.slot.inForce.get c = ⟨.muted, .cut⟩ ∧
      (t.drive.chains.get c).mute = true ∧
      ∀ p, s.slot.prepared = some p → ∃ q, t.slot.prepared = some q ∧
        (∀ r, (p.chains.get c).verdict = .on r →
          q.chains.get c = ⟨.muted (some r.clamped) (some r.cth), .cut, (p.chains.get c).tj⟩) ∧
        ((p.chains.get c).verdict = .off → q.chains.get c = ⟨.muted none none, .cut, (p.chains.get c).tj⟩) ∧
        (∀ x y, (p.chains.get c).verdict = .muted x y → q.chains.get c = p.chains.get c) ∧
        ((∀ d, d ≠ c → t.supervisor.cutRequest.get d = s.supervisor.cutRequest.get d) →
          q = { p with
            chains := p.chains.set c (q.chains.get c)
            budgetUsed := p.budgetUsed - (p.chains.get c).verdict.current })

/-- R109 to R111, R107, R17: a stuck-drive entry that enters LATCHED counts the latch, writes the chain's fault record from
the values before the cut request, and locks the chain in force and in the pending slot, with the reason LOCK unless its
junction-over entry acts too. That a decision so changed keeps its clamped request and ceiling is deduced (log entry 20);
that the record holds the values before the cut is deduced (log entry 5); the byte of an unknown word is open (log entry 6);
that CONDITION_TRIP is that evaluation (log entry 1) and that a decision MUTED for another reason keeps that reason (log entry
37) are the model's choices. -/
def Obligations.StuckDriveLatchWritesTheFaultRecord : Prop :=
  ∀ (s : State) (c : Chain), resetHeld s = false →
    let e := s.supervisor.entries[chainEntry c 2]
    entrySide s (chainEntry c 2) e = some .trip →
    ((e.state = .clear ∧ e.dwell = 1) ∨ (e.state = .alert ∧ 1 ≤ e.dwell ∧ e.dwell ≤ min 65535 (e.elapsed + 1))) →
    ∃ t w, exec .conditionEvaluation s = .next t ∧ exec (.conditionTrip (chainEntry c 2)) s = .next t ∧
      condState t (chainEntry c 2) = .latched ∧
      t.supervisor.latchCount.get c = min 255 (s.supervisor.latchCount.get c + 1) ∧
      t.supervisor.faults.get c =
        { present := true
          released := false
          condId := 4 * c.val + 2
          slot := s.slot.n
          stamp := s.thermal.steps
          rise := (s.thermal.chains.get c).rise
          tj := (s.thermal.chains.get c).tj
          tm := (s.thermal.chains.get c).tm
          detector := s.sensors.readings[7 + c.val].corrected
          state := (s.slot.inForce.get c).force.state
          reason := (s.slot.inForce.get c).reason
          grant := (s.slot.inForce.get c).force.grant
          ackKnown := (s.drive.chains.get c).lastAck.isSome
          ackWord := w
          latchCount := t.supervisor.latchCount.get c } ∧
      (∀ x, (s.drive.chains.get c).lastAck = some x → w = x.code) ∧
      memBytes t.xm (faultAddr c) 64 = faultBytes (t.supervisor.faults.get c) ∧
      t.supervisor.cutRequest.get c = true ∧ (t.drive.chains.get c).mute = true ∧
      (s.supervisor.cutRequest.get c = false →
        ¬((s.governor.state = .idle ∨ s.governor.state = .running) ∧ ∀ d, condState t (chainEntry d 3) = .tripped) →
        ∃ why, (why = .lock ∨ why = .cut) ∧ ((condState t (chainEntry c 0)).acting = false → why = .lock) ∧
          t.slot.inForce.get c = ⟨.muted, why⟩ ∧ ∀ p, s.slot.prepared = some p → ∃ q, t.slot.prepared = some q ∧
            (∀ r, (p.chains.get c).verdict = .on r →
              q.chains.get c = ⟨.muted (some r.clamped) (some r.cth), why, (p.chains.get c).tj⟩) ∧
            ((p.chains.get c).verdict = .off → q.chains.get c = ⟨.muted none none, why, (p.chains.get c).tj⟩) ∧
            (∀ x y, (p.chains.get c).verdict = .muted x y → q.chains.get c = p.chains.get c) ∧
            ((∀ d, d ≠ c → t.supervisor.cutRequest.get d = s.supervisor.cutRequest.get d) →
              q = { p with
                chains := p.chains.set c (q.chains.get c)
                budgetUsed := p.budgetUsed - (p.chains.get c).verdict.current }))

/-- R100, R101, R103, R104, R107, R145: an evaluation at which an acting entry returns to CLEAR; a line stays asserted. -/
def Obligations.ConditionClearsAtTheHold : Prop :=
  ∀ (s : State) (id : Fin 19) (x : Side), resetHeld s = false →
    let e := s.supervisor.entries[id]
    entrySide s id e = some x →
    ((e.state = .tripped ∧ ((x = .recovery ∧ e.hold ≤ 1) ∨ e.dwell = 0)) ∨
      (e.state = .holdoff ∧ ((x = .recovery ∧ e.hold ≤ min 65535 (e.elapsed + 1)) ∨ e.dwell = 0))) →
    ∃ t, exec .conditionEvaluation s = .next t ∧ exec (.conditionClear id) s = .next t ∧
      condState t id = .clear ∧ t.supervisor.entries[id].elapsed = 0 ∧ causeSet .cond t = true ∧
      (∀ c, id = chainEntry c 0 → condState t (chainEntry c 2) ≠ .latched → t.supervisor.cutRequest.get c = false) ∧
      ∀ c, (s.drive.chains.get c).mute = true → (t.drive.chains.get c).mute = true

/-- R102, R113, R119: a LATCHED entry leaves LATCHED only through a RELEASE_LATCH, kind 0x0C, that stood POSTED or that the
command posts, or a power-on reset; only a stuck-drive entry enters LATCHED. -/
def Obligations.LatchedStaysUntilReleased : Prop :=
  (∀ (i : Instr) (s t : State) (id : Fin 19), exec i s = .next t → raises i .powerOn = false →
    (raises i .directive = true → ∀ e, MayBeTaken i s e → entryKind t.xm e ≠ 0x0C) →
    condState s id = .latched → condState t id = .latched) ∧
  ∀ (i : Instr) (s t : State) (id : Fin 19), exec i s = .next t → condState s id ≠ .latched →
    condState t id = .latched → id.val < 16 ∧ id.val % 4 = 2

/-- R102, R107: cut requests are raised exactly while a junction-over entry acts or a stuck-drive entry is LATCHED. -/
def Obligations.EveryStepKeepsTheCutRequests : Prop :=
  StepKeeps CutLaw

/-- R112, R173, R174, R175: an evaluation that leaves all four open-sensor entries TRIPPED stops the part in IDLE and
RUNNING. -/
def Obligations.LostSensorsStopThePart : Prop :=
  ∀ s : State, resetHeld s = false → s.governor.state = .idle ∨ s.governor.state = .running →
    (∀ c, let e := s.supervisor.entries[chainEntry c 3]
      (evaluateEntry (chainEntry c 3) e (entrySide s (chainEntry c 3) e)).state = .tripped) →
    ∃ t causes, exec .conditionEvaluation s = .next t ∧ (causes = s.port.ncause ∨ causes = s.port.ncause ||| 2) ∧
      Stopped .sensorsLost s.thermal.steps causes s t ∧ t.slot.watch = s.slot.watch ∧
      MemoryKept (fun a => InRun 0x0C00 256 a ∨ CancelledEntry s a) s t ∧
      t = { s with
        slot := t.slot, supervisor := t.supervisor, drive := t.drive, capture := t.capture, governor := t.governor
        port := t.port, xm := t.xm }

/-! ### Directives: protection, configuration -/

/-- R113, R111: RELEASE_LATCH by its three checks in order, and an accepted release. -/
def Obligations.ReleaseLatchChecksAndReleases : Prop :=
  ∀ (s : State) (b : Byte) (notify : Bool), ReadyForOne s →
    (4 ≤ b.toNat → ∃ t, exec (.releaseLatch b notify) s = .next t ∧
      CompletedAtCursor s t notify 4 .badArgument [1] ∧ MemoryKept (EntryOrMirror s) s t ∧
      t = { s with directives := t.directives, port := t.port, xm := t.xm }) ∧
    ∀ c : Chain, b.toNat = c.val →
      (condState s (chainEntry c 2) ≠ .latched → ∃ t, exec (.releaseLatch b notify) s = .next t ∧
        CompletedAtCursor s t notify 4 .badArgument [0] ∧ MemoryKept (EntryOrMirror s) s t ∧
        t = { s with directives := t.directives, port := t.port, xm := t.xm }) ∧
      (condState s (chainEntry c 2) = .latched → (s.slot.inForce.get c).force.state ≠ .on →
        s.supervisor.entries[chainEntry c 2].trip ≤ s.sensors.readings[7 + c.val].corrected →
        ∃ t, exec (.releaseLatch b notify) s = .next t ∧
          CompletedAtCursor s t notify 4 .conditionPresent (le16 (u16 s.sensors.readings[7 + c.val].corrected)) ∧
          MemoryKept (EntryOrMirror s) s t ∧
          t = { s with directives := t.directives, port := t.port, xm := t.xm }) ∧
      (condState s (chainEntry c 2) = .latched →
        ((s.slot.inForce.get c).force.state = .on ∨
          (s.sensors.readings[7 + c.val].corrected : Int) < s.supervisor.entries[chainEntry c 2].trip) →
        CutLaw s → MuteLaw s →
        ∃ t, exec (.releaseLatch b notify) s = .next t ∧
          CompletedOver (s.port.ncause ||| 2) s t notify 3 .ok
            [byteOf (4 * c.val + 2), byteOf (s.supervisor.latchCount.get c)] ∧ t.port.reading = none ∧
          t.supervisor.entries = s.supervisor.entries.set (chainEntry c 2).val
            { s.supervisor.entries[chainEntry c 2] with state := .clear, elapsed := 0 } (chainEntry c 2).isLt ∧
          t.supervisor.cutRequest =
            s.supervisor.cutRequest.set c (condState s (chainEntry c 0)).acting ∧
          t.supervisor.faults = s.supervisor.faults.set c { s.supervisor.faults.get c with released := true } ∧
          t.supervisor.latchCount = s.supervisor.latchCount ∧
          memBytes t.xm (faultAddr c) 64 = faultBytes { s.supervisor.faults.get c with released := true } ∧
          t.slot = s.slot ∧ t.drive = s.drive ∧
          MemoryKept (fun a => EntryOrMirror s a ∨ InRun (faultAddr c) 64 a) s t ∧
          t = { s with supervisor := t.supervisor, directives := t.directives, port := t.port, xm := t.xm })

/-- R115, R154, R116, R103, R95, R93: the arguments that CONDITION_SETUP accepts and the number of the first that fails: trip 2,
recovery 4 for its range and for its side of the trip, cap or budget 6; it replaces the five parameters and keeps state and
count, but a dwell of 0 returns an entry that is not LATCHED to CLEAR at once, with the effects of a return to CLEAR. The
posting of the row is the model's choice (log entry 2). -/
def Obligations.ConditionSetupReplacesTheParameters : Prop :=
  (∀ (id : Fin 19) (trip recovery cap : Int),
    let within (x lo hi : Int) : Prop := lo ≤ x ∧ x ≤ hi
    let checked (goodTrip goodRecovery goodCap : Prop) : Prop :=
      (¬goodTrip → condSetupFault id trip recovery cap = some 2) ∧
      (goodTrip → ¬goodRecovery → condSetupFault id trip recovery cap = some 4) ∧
      (goodTrip → goodRecovery → ¬goodCap → condSetupFault id trip recovery cap = some 6) ∧
      (goodTrip → goodRecovery → goodCap → condSetupFault id trip recovery cap = none)
    (id.val < 16 → id.val % 4 = 0 →
      checked (within trip (-2560) 27583) (within recovery (-2560) 27583 ∧ recovery < trip) True) ∧
    (id.val < 16 → id.val % 4 = 1 →
      checked (within trip (-2560) 11200) (within recovery (-2560) 11200 ∧ recovery < trip) (within cap (-200) 120)) ∧
    (id.val < 16 → id.val % 4 = 2 → checked (within trip 0 4095) True True) ∧
    (id.val < 16 → id.val % 4 = 3 → checked True True (within cap (-200) 120)) ∧
    (id.val = 16 →
      checked (within trip (-2560) 11200) (within recovery (-2560) 11200 ∧ recovery < trip) (within cap (-200) 120)) ∧
    (id.val = 17 → checked (within trip 0 8190) (within recovery 0 8190 ∧ recovery < trip) (within cap 0 8000)) ∧
    (id.val = 18 → checked (within trip 0 8190) (within recovery 0 8190 ∧ trip < recovery) (within cap 0 8000))) ∧
  ∀ (s : State) (b : Byte) (trip dwell recovery hold cap : Half) (notify : Bool), ReadyForOne s →
    (19 ≤ b.toNat → ∃ t, exec (.conditionSetup b trip dwell recovery hold cap notify) s = .next t ∧
      CompletedAtCursor s t notify 4 .badArgument [1] ∧ MemoryKept (EntryOrMirror s) s t ∧
      t = { s with directives := t.directives, port := t.port, xm := t.xm }) ∧
    ∀ id : Fin 19, b.toNat = id.val →
      let quantity (h : Half) : Int := if 16 < id.val ∨ (id.val < 16 ∧ id.val % 4 = 2) then h.toNat else h.toInt
      let e := s.supervisor.entries[id]
      (∀ n, condSetupFault id (quantity trip) (quantity recovery) cap.toInt = some n →
        ∃ t, exec (.conditionSetup b trip dwell recovery hold cap notify) s = .next t ∧
          CompletedAtCursor s t notify 4 .badArgument [byteOf n] ∧ MemoryKept (EntryOrMirror s) s t ∧
          t = { s with directives := t.directives, port := t.port, xm := t.xm }) ∧
      (condSetupFault id (quantity trip) (quantity recovery) cap.toInt = none →
        let cleared : Prop := dwell = 0 ∧ e.state ≠ .latched
        ∃ t, exec (.conditionSetup b trip dwell recovery hold cap notify) s = .next t ∧
          (cleared → e.state = .tripped ∨ e.state = .holdoff →
            CompletedOver (s.port.ncause ||| 2) s t notify 3 .ok []) ∧
          (¬cleared ∨ (e.state ≠ .tripped ∧ e.state ≠ .holdoff) → CompletedOver s.port.ncause s t notify 3 .ok []) ∧
          t.port.reading = none ∧
          (cleared → t.supervisor.entries = s.supervisor.entries.set id.val
            ⟨quantity trip, dwell.toNat, quantity recovery, hold.toNat, cap.toInt, .clear, 0⟩ id.isLt) ∧
          (¬cleared → t.supervisor.entries = s.supervisor.entries.set id.val
            ⟨quantity trip, dwell.toNat, quantity recovery, hold.toNat, cap.toInt, e.state, e.elapsed⟩ id.isLt) ∧
          MemoryKept (EntryOrMirror s) s t ∧
          (CutLaw s → MuteLaw s →
            (∀ c, t.supervisor.cutRequest.get c =
              if cleared ∧ id = chainEntry c 0 then decide (condState s (chainEntry c 2) = .latched)
              else s.supervisor.cutRequest.get c) ∧
            t = { s with
              supervisor := { s.supervisor with
                entries := t.supervisor.entries, cutRequest := t.supervisor.cutRequest }
              directives := t.directives, port := t.port, xm := t.xm }))

/-- R48, R23, R158: SUPPLY_SETUP, SLOT_SETUP and CHAIN_SETUP with their argument checks in order. -/
def Obligations.SlotChainAndSupplySetup : Prop :=
  ∀ (s : State) (notify : Bool), ReadyForOne s →
    (∀ budget : Half, ∃ t, exec (.supplySetup budget notify) s = .next t ∧ MemoryKept (EntryOrMirror s) s t ∧
      (8000 < budget.toNat → CompletedAtCursor s t notify 4 .badArgument [1] ∧ t.supply = s.supply) ∧
      (budget.toNat ≤ 8000 → CompletedAtCursor s t notify 3 .ok [] ∧ t.supply.configured = budget.toNat ∧
        t.supply.lastBudget = effectiveBudget { s with supply := ⟨budget.toNat, s.supply.lastBudget⟩ }) ∧
      t = { s with supply := t.supply, directives := t.directives, port := t.port, xm := t.xm }) ∧
    (∀ (n : Half) (code m watch : Byte), s.governor.state = .idle ∨ s.governor.state = .stopped →
      ∃ t, exec (.slotSetup n code m watch notify) s = .next t ∧
      (4 ≤ code.toNat → CompletedAtCursor s t notify 4 .badArgument [2] ∧ t.slot = s.slot) ∧
      (code.toNat < 4 → 7 < m.toNat → CompletedAtCursor s t notify 4 .badArgument [3] ∧ t.slot = s.slot) ∧
      (code.toNat < 4 → m.toNat ≤ 7 → watch = 0 →
        CompletedAtCursor s t notify 4 .badArgument [4] ∧ t.slot = s.slot) ∧
      (∀ h : code.toNat < 4, m.toNat ≤ 7 → watch ≠ 0 → CompletedAtCursor s t notify 3 .ok [] ∧
        memRead16 t.xm 2 = n ∧
        t.slot = { s.slot with
          n := n
          lengthCode := ⟨code.toNat, h⟩
          holdLimit := m.toNat
          watchPeriod := watch.toNat
          watch := watch.toNat
          missCount := 0
          carriedMiss := 0
          lastOutcomeMissed := false }) ∧
      (4 ≤ code.toNat ∨ 7 < m.toNat ∨ watch = 0 → MemoryKept (EntryOrMirror s) s t) ∧
      MemoryKept (fun a => EntryOrMirror s a ∨ InRun 2 2 a) s t ∧
      t = { s with slot := t.slot, directives := t.directives, port := t.port, xm := t.xm }) ∧
    (∀ (n : Half) (code m watch : Byte), s.governor.state = .running ∨ s.governor.state = .stopping →
      ∃ t, exec (.slotSetup n code m watch notify) s = .next t ∧
        CompletedAtCursor s t notify 4 .refusedState [] ∧ MemoryKept (EntryOrMirror s) s t ∧
        t = { s with directives := t.directives, port := t.port, xm := t.xm }) ∧
    ∀ (b : Byte) (tsoft floor fallback : Half), ∃ t, exec (.chainSetup b tsoft floor fallback notify) s = .next t ∧
      (4 ≤ b.toNat → CompletedAtCursor s t notify 4 .badArgument [1] ∧ t.config = s.config) ∧
      (b.toNat < 4 → tsoft.toInt < 3840 ∨ 11200 < tsoft.toInt →
        CompletedAtCursor s t notify 4 .badArgument [2] ∧ t.config = s.config) ∧
      (b.toNat < 4 → 3840 ≤ tsoft.toInt → tsoft.toInt ≤ 11200 → floor.toInt < -80 ∨ 120 < floor.toInt →
        CompletedAtCursor s t notify 4 .badArgument [3] ∧ t.config = s.config) ∧
      (b.toNat < 4 → 3840 ≤ tsoft.toInt → tsoft.toInt ≤ 11200 → -80 ≤ floor.toInt → floor.toInt ≤ 120 →
        fallback.toInt < -2560 ∨ 11200 < fallback.toInt →
        CompletedAtCursor s t notify 4 .badArgument [4] ∧ t.config = s.config) ∧
      (∀ c : Chain, b.toNat = c.val → 3840 ≤ tsoft.toInt → tsoft.toInt ≤ 11200 → -80 ≤ floor.toInt →
        floor.toInt ≤ 120 → -2560 ≤ fallback.toInt → fallback.toInt ≤ 11200 →
        CompletedAtCursor s t notify 3 .ok [] ∧
          t.config = s.config.set c ⟨tsoft.toInt, floor.toInt, fallback.toInt⟩) ∧
      MemoryKept (EntryOrMirror s) s t ∧
      t = { s with config := t.config, directives := t.directives, port := t.port, xm := t.xm }

/-! ### Sensors -/

/-- R121, R123 to R125, R127, R169: a scan completion publishes, discards or ends settling, and counts in INIT; the third one
there ends INIT with READY set. R120: a pin below the 0 to 1.2 V scale gives code 0, one above it 4095; the levels are in
microvolts, and what lies within the scale is open (log entry 34). -/
def Obligations.ScansPublishSettleAndEndInit : Prop :=
  (∀ (levels : Vector Int 11) (ch : Fin 11),
    (levels[ch] < 0 → (scanCodes levels)[ch] = 0) ∧ (1200000 < levels[ch] → (scanCodes levels)[ch] = 4095)) ∧
  ∀ (s : State) (raw : Vector (BitVec 12) 11), resetHeld s = false →
    let code (ch : Fin 11) : Int :=
      clamp ((((raw[ch].toNat : Int) - s.sensors.offset) * s.sensors.gain + 2048) / 4096) 0 4095
    let converted (ch : Fin 11) (r : Reading) : Prop :=
      r.raw = raw[ch] ∧ (r.corrected : Int) = code ch ∧
      (∀ h : ch.val < 5,
        r.value = clamp (s.sensors.pairs[ch.val].intercept + (code ch * s.sensors.pairs[ch.val].slope) / 4096) (-2560) 11200 ∧
        (r.implausible = true ↔ code ch < 16 ∨ 4079 < code ch)) ∧
      (ch.val = 5 ∨ ch.val = 6 → r.value = 2 * code ch) ∧ (7 ≤ ch.val → r.value = code ch)
    let published (t : State) : Prop :=
      t.sensors = { s.sensors with mode := .scanning, held := t.sensors.held, valid := true, readings := t.sensors.readings } ∧
      ∀ ch : Fin 11, converted ch t.sensors.readings[ch]
    (s.sensors.mode = .scanning → s.governor.state ≠ .init →
      ∃ t, exec (.scanCompletion raw) s = .next t ∧ published t ∧ t.sensors.held = s.sensors.held ∧
        t = { s with sensors := t.sensors }) ∧
    (s.sensors.mode = .settling → s.sensors.settleCount ≠ 0 →
      exec (.scanCompletion raw) s =
        .next { s with sensors := { s.sensors with settleCount := s.sensors.settleCount - 1 } }) ∧
    (s.sensors.mode = .settling → s.sensors.settleCount = 0 → s.governor.state ≠ .init →
      ∃ t, exec (.scanCompletion raw) s = .next t ∧ exec (.settlingEnd raw) s = .next t ∧ published t ∧
        t.sensors.held = false ∧ t = { s with sensors := t.sensors }) ∧
    (s.sensors.mode = .scanning → s.governor.state = .init → s.governor.initScans ≠ 2 →
      ∃ t, exec (.scanCompletion raw) s = .next t ∧ published t ∧ t.sensors.held = s.sensors.held ∧
        t = { s with
          sensors := t.sensors, governor := { s.governor with initScans := s.governor.initScans + 1 } }) ∧
    (s.sensors.mode = .scanning → s.governor.state = .init → s.governor.initScans = 2 →
      ∃ t, exec (.scanCompletion raw) s = .next t ∧ exec (.initComplete raw) s = .next t ∧ published t ∧
        t.sensors.held = s.sensors.held ∧
        t = { s with
          sensors := t.sensors
          governor := { s.governor with initScans := 3, state := if s.governor.run then .running else .idle }
          slot := { s.slot with watch := if s.governor.run then s.slot.watchPeriod else s.slot.watch }
          port := { s.port with ncause := s.port.ncause ||| 1 } })

/-- R128, R129, R131, R133, R156: the takes of CALIBRATE and SELFTEST hold the table, each step makes a measurement, and
SENSOR_SETUP replaces a pair and begins settling. That a take during SETTLING leaves the settle count as it stands is the
model's choice (log entry 28), as is that SENSOR_SETUP empties the stored measurements (log entry 35). -/
def Obligations.SensorDirectivesHoldTheTable : Prop :=
  (∀ (s : State) (notify : Bool), ReadyForOne s →
    (∃ t, exec (.calibrate notify) s = .next t ∧ ActiveAtCursor s t ⟨.calibrate, some 16, notify⟩ ∧
      MemoryKept (InRun (entryAddr s.directives.cursor) 32) s t ∧
      t = { s with
        sensors := { s.sensors with mode := .calibrating, held := true, measurements := [] }
        directives := t.directives, port := t.port, xm := t.xm }) ∧
    ∃ t, exec (.selftest notify) s = .next t ∧ ActiveAtCursor s t ⟨.selftest, some 8, notify⟩ ∧
      MemoryKept (InRun (entryAddr s.directives.cursor) 32) s t ∧
      t = { s with
        sensors := { s.sensors with mode := .selftesting, held := true, measurements := [] }
        directives := t.directives, port := t.port, xm := t.xm }) ∧
  (∀ (s : State) (m : Measurement) (n : Nat) (notify : Bool), resetHeld s = false →
    let zero := s.sensors.measurements ++ [m.zero.toInt]
    let reference := s.sensors.measurements ++ [(m.reference.toNat : Int)]
    let measured (half : Nat) := if s.sensors.measurements.length < half then zero else reference
    (s.directives.active = some ⟨.calibrate, some (n + 2), notify⟩ → exec (.directiveStepEvent m) s = .next { s with
      sensors := { s.sensors with measurements := measured 8 }
      directives := ⟨s.directives.cursor, some ⟨.calibrate, some (n + 1), notify⟩⟩ }) ∧
    (s.directives.active = some ⟨.selftest, some (n + 2), notify⟩ → exec (.directiveStepEvent m) s = .next { s with
      sensors := { s.sensors with measurements := measured 4 }
      directives := ⟨s.directives.cursor, some ⟨.selftest, some (n + 1), notify⟩⟩ })) ∧
  ∀ (s : State) (b : Byte) (intercept slope : Half) (notify : Bool), ReadyForOne s →
    ∃ t, exec (.sensorSetup b intercept slope notify) s = .next t ∧
      (5 ≤ b.toNat → CompletedAtCursor s t notify 4 .badArgument [1] ∧ t.sensors = s.sensors) ∧
      (b.toNat < 5 → intercept.toInt < -2560 ∨ 11200 < intercept.toInt →
        CompletedAtCursor s t notify 4 .badArgument [2] ∧ t.sensors = s.sensors) ∧
      (b.toNat < 5 → -2560 ≤ intercept.toInt → intercept.toInt ≤ 11200 → slope = 0 ∨ 32767 < slope.toNat →
        CompletedAtCursor s t notify 4 .badArgument [3] ∧ t.sensors = s.sensors) ∧
      (∀ ch : Fin 5, b.toNat = ch.val → -2560 ≤ intercept.toInt → intercept.toInt ≤ 11200 → slope ≠ 0 →
        slope.toNat ≤ 32767 → CompletedAtCursor s t notify 3 .ok [] ∧
        t.sensors = { s.sensors with
          pairs := s.sensors.pairs.set ch.val ⟨intercept.toInt, slope.toNat⟩ ch.isLt
          mode := .settling
          settleCount := 2
          held := true
          measurements := [] }) ∧
      MemoryKept (EntryOrMirror s) s t ∧
      t = { s with sensors := t.sensors, directives := t.directives, port := t.port, xm := t.xm }

/-- R129 to R132, R127, R154, R155: the completions of CALIBRATE at its sixteenth measurement and of SELFTEST at its
eighth. That CALIBRATE_COMPLETION and SELFTEST_COMPLETION are those step events is the model's choice (log entry 1), as is
that the stored measurements are emptied there (log entry 35) and that the fail flag's byte is 1 set, 0 clear (log entry 36). -/
def Obligations.CalibrateAndSelftestComplete : Prop :=
  (∀ (s : State) (m : Measurement) (notify : Bool), CompletesNext s .calibrate notify →
    s.sensors.measurements.length = 15 →
    let z : Int := ((s.sensors.measurements.take 8).sum + 4) / 8
    let ref : Int := ((s.sensors.measurements.drop 8).sum + m.reference.toNat + 4) / 8
    let gain : Int := (4096 * 3072 + (ref - z) / 2) / (ref - z)
    let data (g : Int) (failing : Byte) := le16 (i16 z) ++ le16 (i16 ref) ++ le16 (i16 g) ++ [failing]
    ∃ t, exec (.calibrateCompletion m) s = .next t ∧ exec (.directiveStepEvent m) s = .next t ∧
      t.port.reading = s.port.reading ∧
      (z < -64 ∨ 64 < z → CompletedOver s.port.ncause s t notify 4 .calFailed (data 0 1) ∧
        t.sensors.offset = s.sensors.offset ∧ t.sensors.gain = s.sensors.gain) ∧
      (-64 ≤ z → z ≤ 64 → ref < 2872 ∨ 3272 < ref → CompletedOver s.port.ncause s t notify 4 .calFailed (data 0 2) ∧
        t.sensors.offset = s.sensors.offset ∧ t.sensors.gain = s.sensors.gain) ∧
      (-64 ≤ z → z ≤ 64 → 2872 ≤ ref → ref ≤ 3272 → CompletedOver s.port.ncause s t notify 3 .ok (data gain 0) ∧
        t.sensors.offset = z ∧ (t.sensors.gain : Int) = gain ∧ 3772 ≤ gain ∧ gain ≤ 4481) ∧
      t.sensors = { s.sensors with
        offset := t.sensors.offset, gain := t.sensors.gain
        mode := .settling
        settleCount := 2
        held := true
        measurements := [] } ∧
      MemoryKept (CompletionBytes s) s t ∧
      t = { s with sensors := t.sensors, directives := t.directives, port := t.port, xm := t.xm }) ∧
  ∀ (s : State) (m : Measurement) (notify : Bool), CompletesNext s .selftest notify →
    s.sensors.measurements.length = 7 →
    let zs : Int := ((s.sensors.measurements.take 4).sum + 2) / 4
    let rs : Int := ((s.sensors.measurements.drop 4).sum + m.reference.toNat + 2) / 4
    let cz : Int := ((zs - s.sensors.offset) * s.sensors.gain + 2048) / 4096
    let cr : Int := ((rs - s.sensors.offset) * s.sensors.gain + 2048) / 4096
    let passed : Prop := -24 ≤ cz ∧ cz ≤ 24 ∧ 3048 ≤ cr ∧ cr ≤ 3096
    ∃ t, exec (.selftestCompletion m) s = .next t ∧ exec (.directiveStepEvent m) s = .next t ∧
      t.port.reading = s.port.reading ∧
      (passed → CompletedOver s.port.ncause s t notify 3 .ok (le16 (i16 cz) ++ le16 (i16 cr) ++ [0])) ∧
      (¬passed → CompletedOver s.port.ncause s t notify 3 .ok (le16 (i16 cz) ++ le16 (i16 cr) ++ [1])) ∧
      MemoryKept (CompletionBytes s) s t ∧
      t = { s with
        sensors := { s.sensors with mode := .settling, settleCount := 2, held := true, measurements := [] }
        directives := t.directives, port := t.port, xm := t.xm }

/-- R126, R164: the table is held exactly outside SCANNING, and INIT holds nothing and runs no directive. -/
def Obligations.EveryStepKeepsTheHoldLaw : Prop :=
  StepKeeps HoldLaw

/-! ### Profiles -/

/-- R85: the first check that fails decides an image: index, R, k, then the points in order. -/
def Obligations.ImageChecksInOrder : Prop :=
  ∀ b : LoadBuffer,
    let current (i : Fin 25) : Nat := b.image.currents[i]
    let dissipation (i : Fin 25) : Nat := b.image.dissipations[i]
    let header : Prop := b.index = b.target.val ∧ 1 ≤ b.image.r ∧ b.image.r ≤ 255 ∧ 1 ≤ b.image.k ∧ b.image.k ≤ 65535
    let ordered (v : Fin 25 → Nat) (i : Fin 25) : Prop := ∀ j : Fin 25, j.val + 1 = i.val → v j ≤ v i
    let good (i : Fin 25) : Prop := current i ≤ 8000 ∧ ordered current i ∧ ordered dissipation i
    (b.index ≠ b.target.val → imageFault b = some ⟨255, 1⟩) ∧
    (b.index = b.target.val → b.image.r = 0 ∨ 255 < b.image.r → imageFault b = some ⟨255, 2⟩) ∧
    (b.index = b.target.val → 1 ≤ b.image.r → b.image.r ≤ 255 → b.image.k = 0 ∨ 65535 < b.image.k →
      imageFault b = some ⟨255, 3⟩) ∧
    (header → ∀ i : Fin 25, (∀ j, j < i → good j) →
      (8000 < current i → imageFault b = some ⟨i.val, 4⟩) ∧
      (current i ≤ 8000 → ¬ordered current i → imageFault b = some ⟨i.val, 5⟩) ∧
      (current i ≤ 8000 → ordered current i → ¬ordered dissipation i → imageFault b = some ⟨i.val, 6⟩)) ∧
    (imageFault b = none ↔ header ∧ ∀ i, good i) ∧
    (b.index = b.target.val → (b.image.valid = true ↔ imageFault b = none))

/-- R82, R83, R84, R86, R87, R89, R190: PROFILE_LOAD copies the staging image, field by field, at its take, and swaps a valid one in or leaves the slot at
its completion; PROFILE_DROP empties a slot. That PROFILE_LOAD_COMPLETION is that step event is the model's choice (log entry
1), as is the posting of a row (log entry 2). -/
def Obligations.ProfilesLoadAndDropWhole : Prop :=
  (∀ (s : State) (b : Byte) (notify : Bool), ReadyForOne s →
    (16 ≤ b.toNat → (∃ t, exec (.profileLoad b notify) s = .next t ∧
        CompletedAtCursor s t notify 4 .badArgument [1] ∧ MemoryKept (EntryOrMirror s) s t ∧
        t = { s with directives := t.directives, port := t.port, xm := t.xm }) ∧
      ∃ t, exec (.profileDrop b notify) s = .next t ∧
        CompletedAtCursor s t notify 4 .badArgument [1] ∧ MemoryKept (EntryOrMirror s) s t ∧
        t = { s with directives := t.directives, port := t.port, xm := t.xm }) ∧
    ∀ j : Fin 16, b.toNat = j.val →
      (∃ t, exec (.profileLoad b notify) s = .next t ∧ ActiveAtCursor s t ⟨.profileLoad j, some 1, notify⟩ ∧
        MemoryKept (InRun (entryAddr s.directives.cursor) 32) s t ∧
        t = { s with
          store := { s.store with buffer := some (readStaging s.xm j) }
          directives := t.directives, port := t.port, xm := t.xm }) ∧
      ∃ t, exec (.profileDrop b notify) s = .next t ∧ CompletedAtCursor s t notify 3 .ok [] ∧
        MemoryKept (EntryOrMirror s) s t ∧
        t = { s with
          store := { s.store with slots := s.store.slots.set j.val none j.isLt }
          directives := t.directives, port := t.port, xm := t.xm }) ∧
  (∀ (m : Memory) (j : Fin 16), let b := readStaging m j
    let a := 0x1000 + 128 * j.val
    b.target = j ∧ b.index = (memRead16 m a).toNat ∧ b.image.r = (memRead16 m (a + 2)).toNat ∧
      b.image.k = (memRead16 m (a + 4)).toNat ∧
      ∀ i : Fin 25, b.image.currents[i] = (memRead16 m (a + 8 + 4 * i.val)).toNat ∧
        b.image.dissipations[i] = (memRead16 m (a + 10 + 4 * i.val)).toNat) ∧
  ∀ (s : State) (m : Measurement) (j : Fin 16) (notify : Bool) (b : LoadBuffer),
    CompletesNext s (.profileLoad j) notify → s.store.buffer = some b →
    ∃ t, exec .profileLoadCompletion s = .next t ∧ exec (.directiveStepEvent m) s = .next t ∧
      t.port.reading = s.port.reading ∧
      (imageFault b = none → CompletedOver s.port.ncause s t notify 3 .ok [0, 0] ∧
        t.store = ⟨s.store.slots.set b.target.val (some b.image) b.target.isLt, none⟩) ∧
      (∀ f, imageFault b = some f →
        CompletedOver s.port.ncause s t notify 4 .profileInvalid [byteOf f.point, byteOf f.kind] ∧
        t.store = ⟨s.store.slots, none⟩) ∧
      MemoryKept (CompletionBytes s) s t ∧
      t = { s with store := t.store, directives := t.directives, port := t.port, xm := t.xm }

/-- R80, R86: the store never holds anything but whole validated images. -/
def Obligations.EveryStepKeepsValidatedProfiles : Prop :=
  StepKeeps StoreLaw

/-! ### Directives: capture, pause, the list itself -/

/-- R161, R163: CAPTURE_START with its argument checks in order, and CAPTURE_STOP at once or waiting for a burst, when it holds
no timer (R156). -/
def Obligations.CaptureStartsAndStops : Prop :=
  (∀ (s : State) (b : Byte) (tags : Vector Byte 8) (d : Byte) (threshold : Half) (notify : Bool), ReadyForOne s →
    let good (i : Fin 8) : Prop :=
      (tags[i].toNat ≤ 10 ∨ (16 ≤ tags[i].toNat ∧ tags[i].toNat ≤ 32)) ∧ ∀ j, j < i → tags[j] ≠ tags[i]
    ∃ t, exec (.captureStart b tags d threshold notify) s = .next t ∧
      (s.governor.state = .stopping ∨ s.governor.state = .stopped →
        CompletedAtCursor s t notify 4 .refusedState [0] ∧ t.capture = s.capture) ∧
      (s.governor.state = .idle ∨ s.governor.state = .running →
        (b = 0 ∨ 8 < b.toNat → CompletedAtCursor s t notify 4 .badArgument [1] ∧ t.capture = s.capture) ∧
        (b ≠ 0 → b.toNat ≤ 8 →
          (∀ i : Fin 8, i.val < b.toNat → ¬good i → (∀ j, j < i → good j) →
            CompletedAtCursor s t notify 4 .badArgument [byteOf (i.val + 2)] ∧ t.capture = s.capture) ∧
          ((∀ i : Fin 8, i.val < b.toNat → good i) →
            (d = 0 → CompletedAtCursor s t notify 4 .badArgument [10] ∧ t.capture = s.capture) ∧
            (d ≠ 0 → 1023 < threshold.toNat →
              CompletedAtCursor s t notify 4 .badArgument [11] ∧ t.capture = s.capture) ∧
            (d ≠ 0 → threshold.toNat ≤ 1023 → CompletedAtCursor s t notify 3 .ok [] ∧
              t.capture = { s.capture with
                on := true
                sources := tags.toList.take b.toNat
                decimation := d.toNat
                threshold := threshold.toNat
                count := d.toNat
                startFresh := true
                above := false })))) ∧
      MemoryKept (EntryOrMirror s) s t ∧
      t = { s with capture := t.capture, directives := t.directives, port := t.port, xm := t.xm }) ∧
  (∀ (s : State) (m : Measurement) (notify : Bool), s.directives.active = some ⟨.captureStop, none, notify⟩ →
    exec (.directiveStepEvent m) s = .next s) ∧
  ∀ (s : State) (notify : Bool), ReadyForOne s →
    (s.capture.on = false ∨ s.capture.burst = none → ∃ t, exec (.captureStop notify) s = .next t ∧
      CompletedAtCursor s t notify 3 .ok [] ∧ MemoryKept (EntryOrMirror s) s t ∧
      t = { s with
        capture := { s.capture with on := false }, directives := t.directives, port := t.port, xm := t.xm }) ∧
    (s.capture.on = true → s.capture.burst ≠ none → ∃ t, exec (.captureStop notify) s = .next t ∧
      ActiveAtCursor s t ⟨.captureStop, none, notify⟩ ∧
      MemoryKept (InRun (entryAddr s.directives.cursor) 32) s t ∧
      t = { s with directives := t.directives, port := t.port, xm := t.xm })

/-- R159, R156, R160: PAUSE holds the list for n steps; CLEAR_PENDING discards the posted run behind it. -/
def Obligations.PauseAndClearPending : Prop :=
  (∀ (s : State) (notify : Bool), ReadyForOne s →
    (∃ t, exec (.pause 0 notify) s = .next t ∧ CompletedAtCursor s t notify 4 .badArgument [1] ∧
      MemoryKept (EntryOrMirror s) s t ∧ t = { s with directives := t.directives, port := t.port, xm := t.xm }) ∧
    ∀ n : Byte, n ≠ 0 → ∃ t, exec (.pause n notify) s = .next t ∧
      ActiveAtCursor s t ⟨.pause n.toNat, some n.toNat, notify⟩ ∧
      MemoryKept (InRun (entryAddr s.directives.cursor) 32) s t ∧
      t = { s with directives := t.directives, port := t.port, xm := t.xm }) ∧
  (∀ (s : State) (m : Measurement) (n k : Nat) (notify : Bool), resetHeld s = false →
    s.directives.active = some ⟨.pause n, some (k + 2), notify⟩ →
    exec (.directiveStepEvent m) s =
      .next { s with directives := ⟨s.directives.cursor, some ⟨.pause n, some (k + 1), notify⟩⟩ }) ∧
  (∀ (s : State) (m : Measurement) (n : Nat) (notify : Bool), CompletesNext s (.pause n) notify →
    ∃ t, exec .pauseCompletion s = .next t ∧ exec (.directiveStepEvent m) s = .next t ∧
      CompletedOver s.port.ncause s t notify 3 .ok [] ∧ t.port.reading = s.port.reading ∧ MemoryKept (CompletionBytes s) s t ∧
      t = { s with directives := t.directives, port := t.port, xm := t.xm }) ∧
  ∀ (s : State) (n : Nat) (notify : Bool), resetHeld s = false → s.governor.state ≠ .init →
    s.directives.active = none → entryState s.xm s.directives.cursor ≠ 2 → n ≤ 31 →
    (∀ i, i < n → entryState s.xm (s.directives.cursor + 1 + BitVec.ofNat 5 i) = 1) →
    (n < 31 → entryState s.xm (s.directives.cursor + 1 + BitVec.ofNat 5 n) ≠ 1) →
    ∃ t, exec (.clearPending notify) s = .next t ∧ CompletedAtCursor s t notify 3 .ok [byteOf n] ∧
      (∀ i, i < n → let e := s.directives.cursor + 1 + BitVec.ofNat 5 i
        entryState t.xm e = 5 ∧ memRead t.xm (entryAddr e + 3) = 0 ∧ memBytes t.xm (entryAddr e + 24) 8 = zeros 8) ∧
      MemoryKept (fun a => EntryOrMirror s a ∨
        ∃ i, i < n ∧ (let e := s.directives.cursor + 1 + BitVec.ofNat 5 i
          a = entryAddr e ∨ a = entryAddr e + 3 ∨ InRun (entryAddr e + 24) 8 a)) s t ∧
      t = { s with directives := t.directives, port := t.port, xm := t.xm }

/-- R152, R153, R155: NUDGE and the step event scan the list, except in INIT and, for NUDGE, while a directive is active; an
unknown kind and a refused one complete FAILED, and each completion draws the scan on, once round the ring at most. A batch of
accepted instant directives, SUPPLY_SETUPs, runs whole in one event, each on what those before it left (R48). -/
def Obligations.PromptsScanTheList : Prop :=
  (∀ s : State, resetHeld s = false →
    s.governor.state = .init ∨ s.directives.active ≠ none ∨ entryState s.xm s.directives.cursor ≠ 1 →
    exec .nudge s = .next { s with port := { s.port with reading := none } }) ∧
  (∀ (s : State) (m : Measurement), s.directives.active = none →
    s.governor.state = .init ∨ entryState s.xm s.directives.cursor ≠ 1 → exec (.directiveStepEvent m) s = .next s) ∧
  (∀ (s : State) (m : Measurement) (n : Nat), resetHeld s = false → s.governor.state ≠ .init →
    s.directives.active = none → 1 ≤ n → n ≤ 32 →
    (∀ i, i < n → let e := s.directives.cursor + BitVec.ofNat 5 i
      entryState s.xm e = 1 ∧ ((entryKind s.xm e).toNat = 0 ∨ 14 < (entryKind s.xm e).toNat)) →
    (n < 32 → entryState s.xm (s.directives.cursor + BitVec.ofNat 5 n) ≠ 1) →
    ∃ t, exec (.directiveStepEvent m) s = .next t ∧
      exec .nudge s = .next { t with port := { t.port with reading := none } } ∧
      (∀ i, i < n → let e := s.directives.cursor + BitVec.ofNat 5 i
        entryState t.xm e = 4 ∧ memRead t.xm (entryAddr e + 3) = 1 ∧ memBytes t.xm (entryAddr e + 24) 8 = zeros 8) ∧
      t.directives = ⟨s.directives.cursor + BitVec.ofNat 5 n, none⟩ ∧
      memRead t.xm 6 = (s.directives.cursor + BitVec.ofNat 5 n).setWidth 8 ∧
      (causeSet .directive t = true ↔ causeSet .directive s = true ∨
        ∃ i, i < n ∧ entryNotify s.xm (s.directives.cursor + BitVec.ofNat 5 i) = true) ∧
      t.port.ncause ||| 4 = s.port.ncause ||| 4 ∧
      MemoryKept (fun a => a = 6 ∨ ∃ i, i < n ∧ (let e := s.directives.cursor + BitVec.ofNat 5 i
        a = entryAddr e ∨ a = entryAddr e + 3 ∨ InRun (entryAddr e + 24) 8 a)) s t ∧
      t = { s with directives := t.directives, port := { s.port with ncause := t.port.ncause }, xm := t.xm }) ∧
  (∀ (s : State) (m : Measurement) (n : Nat), resetHeld s = false → s.governor.state ≠ .init →
    s.directives.active = none → 1 ≤ n → n ≤ 32 →
    (∀ i, i < n → let e := s.directives.cursor + BitVec.ofNat 5 i
      entryState s.xm e = 1 ∧ entryKind s.xm e = 0x04 ∧ (memRead16 s.xm (entryAddr e + 4)).toNat ≤ 8000) →
    (n < 32 → entryState s.xm (s.directives.cursor + BitVec.ofNat 5 n) ≠ 1) →
    ∃ t, exec (.directiveStepEvent m) s = .next t ∧
      exec .nudge s = .next { t with port := { t.port with reading := none } } ∧
      (∀ i, i < n → let e := s.directives.cursor + BitVec.ofNat 5 i
        entryState t.xm e = 3 ∧ memRead t.xm (entryAddr e + 3) = 0 ∧ memBytes t.xm (entryAddr e + 24) 8 = zeros 8) ∧
      (∀ budget, budget = (memRead16 s.xm (entryAddr (s.directives.cursor + BitVec.ofNat 5 (n - 1)) + 4)).toNat →
        t.supply = ⟨budget, effectiveBudget { s with supply := ⟨budget, s.supply.lastBudget⟩ }⟩) ∧
      t.directives = ⟨s.directives.cursor + BitVec.ofNat 5 n, none⟩ ∧
      memRead t.xm 6 = (s.directives.cursor + BitVec.ofNat 5 n).setWidth 8 ∧
      (causeSet .directive t = true ↔ causeSet .directive s = true ∨
        ∃ i, i < n ∧ entryNotify s.xm (s.directives.cursor + BitVec.ofNat 5 i) = true) ∧
      t.port.ncause ||| 4 = s.port.ncause ||| 4 ∧
      MemoryKept (fun a => a = 6 ∨ ∃ i, i < n ∧ (let e := s.directives.cursor + BitVec.ofNat 5 i
        a = entryAddr e ∨ a = entryAddr e + 3 ∨ InRun (entryAddr e + 24) 8 a)) s t ∧
      t = { s with supply := t.supply, directives := t.directives, port := { s.port with ncause := t.port.ncause }, xm := t.xm }) ∧
  ∀ (s : State) (m : Measurement), resetHeld s = false → s.directives.active = none →
    entryState s.xm s.directives.cursor = 1 → entryState s.xm (s.directives.cursor + 1) ≠ 1 →
    ((entryKind s.xm s.directives.cursor = 0x01 ∧ (s.governor.state = .running ∨ s.governor.state = .stopping)) ∨
      (entryKind s.xm s.directives.cursor = 0x0A ∧ (s.governor.state = .stopping ∨ s.governor.state = .stopped))) →
    ∃ t, exec (.directiveStepEvent m) s = .next t ∧
      CompletedOver s.port.ncause s t (entryNotify s.xm s.directives.cursor) 4 .refusedState [0] ∧
      t.port.reading = s.port.reading ∧
      MemoryKept (CompletionBytes s) s t ∧ t = { s with directives := t.directives, port := t.port, xm := t.xm }

/-- R151: at most one entry is ACTIVE at any time, and it is the entry at the cursor. R149, R150: kind, flags and arguments of
an entry are the host's: but for a power-on reset, only a write transaction and the row that posts the entry move them. -/
def Obligations.EveryStepKeepsOneActiveEntry : Prop :=
  StepKeeps ActiveEntryLaw ∧
  ∀ (i : Instr) (s t : State) (e : BitVec 5) (k : Nat), exec i s = .next t → i ≠ .powerOnReset →
    (∀ bytes, i ≠ .spiWrite bytes ∧ i ≠ .spiQuadWrite bytes) → postsAt i s e = false → 1 ≤ k → k < 24 → k ≠ 3 →
    memRead t.xm (entryAddr e + k) = memRead s.xm (entryAddr e + k)

/-! ### Capture -/

/-- R186, R162, R163, R174: the Capture Unit's step event, and the burst it prepares. The model's choices: `atStart` says that
a CAPTURE_START was taken at this instant (log entry 9), BURST_PREPARATION is the step event that prepares (log entry 1), and a
burst still in flight at the count leaves none prepared and the count reloaded (log entry 8). -/
def Obligations.CaptureStepsCountAndPrepare : Prop :=
  (∀ (s : State) (atStart : Bool), resetHeld s = false →
    (s.capture.on = false ∨ s.governor.state = .stopping ∨ (atStart = true ∧ s.capture.startFresh = true) →
      exec (.captureStepEvent atStart) s = .next { s with capture := { s.capture with startFresh := false } }) ∧
    (s.capture.on = true → s.governor.state ≠ .stopping → atStart = false ∨ s.capture.startFresh = false →
      (1 < s.capture.count → exec (.captureStepEvent atStart) s =
        .next { s with capture := { s.capture with startFresh := false, count := s.capture.count - 1 } }) ∧
      (s.capture.count ≤ 1 →
        ((∃ k, s.directives.active = some ⟨.captureStop, none, k⟩) ∨ s.capture.burst ≠ none →
          exec (.captureStepEvent atStart) s =
            .next { s with capture := { s.capture with startFresh := false, count := s.capture.decimation } }) ∧
        ((∀ a, s.directives.active = some a → a.kind ≠ .captureStop) → s.capture.burst = none →
          ∃ t, exec (.captureStepEvent atStart) s = .next t ∧ exec .burstPreparation s = .next t ∧
            t = { s with capture := { s.capture with
              startFresh := false
              count := s.capture.decimation
              burst := some (s.capture.sources.map (sample s)) } })))) ∧
  ∀ (s : State) (tag : Byte), (sample s tag).stamp = s.thermal.steps ∧ (sample s tag).tag = tag ∧
    (sample s tag).gap = false ∧
    (∀ ch : Fin 11, tag.toNat = ch.val → (sample s tag).value = i16 s.sensors.readings[ch].value ∧
      (sample s tag).held = s.sensors.held ∧
      (sample s tag).implausible = (decide (ch.val < 5) && s.sensors.readings[ch].implausible)) ∧
    (11 ≤ tag.toNat → (sample s tag).held = false ∧ (sample s tag).implausible = false) ∧
    (∀ c : Chain,
      (tag.toNat = 16 + c.val → (sample s tag).value = u16 (s.thermal.chains.get c).rise) ∧
      (tag.toNat = 20 + c.val → (sample s tag).value = i16 (s.thermal.chains.get c).tj) ∧
      (tag.toNat = 24 + c.val → (sample s tag).value = powerField (s.slot.lastCeiling.get c)) ∧
      (tag.toNat = 28 + c.val → (sample s tag).value = powerField (s.slot.inForce.get c).force.grant)) ∧
    (tag.toNat = 32 → (sample s tag).value = u16 s.supply.lastBudget)

/-- R187, R188, R163: a burst completion outside STOPPING, by the fill and the lost count; the part's own writes never carry
the fill above 1024; one that a CAPTURE_STOP waits for turns capture off and completes it. -/
def Obligations.BurstsLandByTheFill : Prop :=
  ∀ (s : State) (b : List CaptureRecord), resetHeld s = false → s.governor.state ≠ .stopping → s.capture.burst = some b →
    b ≠ [] → b.length ≤ 8 → s.capture.lost ≤ 65535 →
    ((∀ a, s.directives.active = some a → a.kind ≠ .captureStop) →
      ∃ t, exec .burstCompletion s = .next t ∧ BurstLanded b (fun _ => False) s t ∧
        t.port = { s.port with ncause := landedCauses s t } ∧
        t.capture = { s.capture with
          w := t.capture.w, lost := t.capture.lost, above := t.capture.above, burst := none } ∧
        t = { s with capture := t.capture, port := t.port, xm := t.xm }) ∧
    ∀ notify, s.directives.active = some ⟨.captureStop, none, notify⟩ →
      entryState s.xm (s.directives.cursor + 1) ≠ 1 →
      ∃ t, exec .burstCompletion s = .next t ∧ BurstLanded b (CompletionBytes s) s t ∧
        CompletedOver (landedCauses s t) s t notify 3 .ok [] ∧ t.port.reading = s.port.reading ∧
        t.capture = { s.capture with
          on := false, w := t.capture.w, lost := t.capture.lost, above := t.capture.above, burst := none } ∧
        t = { s with capture := t.capture, directives := t.directives, port := t.port, xm := t.xm }

/-! ### The memory port -/

/-- R178, R179, R180, R184, R150: a write transaction lands byte by byte where the host may write, whole at its end, and its
register writes follow in ascending order: GCTL, after whose warm reset none follows, NCAUSE, NMASK, NUDGE; both data phases do
the same. R179: the lines give the write commands their bytes; another command byte, an incomplete address and a transaction
that a reset abandons bring none. The model's choices: a register's row is the transaction of exactly its two bytes and a write
ends a read in progress (log entry 16); the row of each of the fourteen directives is its entry's transaction, with the
arguments at the offsets of R190, followed by a NUDGE (log entry 2); the lines queue the commands (log entry 30). -/
def Obligations.HostWritesLandWhereTheyMay : Prop :=
  (∀ (s : State) (hi lo : Byte) (data : List Byte), resetHeld s = false →
    let written (a : Half) : Option Byte := (data.take 256)[(a - (hi ++ lo : Half)).toNat]?
    let unwritten (a : Half) : Prop := written a = none ∨ written (a + 1) = none
    let word (a v : Half) : Prop := written a = some (v.extractLsb' 0 8) ∧ written (a + 1) = some (v.extractLsb' 8 8)
    let lands (a : Nat) (b : Byte) : Prop :=
      a = 0x003C ∨ a = 0x003D ∨ InRun 0x0200 0x200 a ∨ InRun 0x1000 0x800 a ∨
      (InRun 0x0800 0x400 a ∧ memRead s.xm (a - a % 32) ≠ 2 ∧
        ((a % 32 = 0 ∧ (b.toNat < 2 ∨ 5 < b.toNat)) ∨ (a % 32 ≠ 0 ∧ a % 32 ≠ 3 ∧ a % 32 < 24)))
    ∃ u v w x t, exec (.spiWrite (hi :: lo :: data)) s = .next t ∧
      (∀ a b, written a = some b → (lands a.toNat b → memRead u.xm a.toNat = b) ∧
        (¬lands a.toNat b → memRead u.xm a.toNat = memRead s.xm a.toNat)) ∧
      MemoryKept (fun a => ∃ h : Half, h.toNat = a ∧ written h ≠ none) s u ∧
      u = { s with port := { s.port with reading := none }, xm := u.xm } ∧
      (unwritten 0x4002 → v = u) ∧
      (∀ g, word 0x4002 g → g.getLsbD 1 = true → exec .warmReset u = .next t) ∧
      (∀ g, word 0x4002 g → g.getLsbD 1 = false →
        exec (if g.getLsbD 0 then .runWritten1 else .runWritten0) u = .next v) ∧
      ((∀ g, word 0x4002 g → g.getLsbD 1 = false) →
        (unwritten 0x4006 → w = v) ∧ (∀ g, word 0x4006 g → exec (.ncauseClear g) v = .next w) ∧
        (unwritten 0x4008 → x = w) ∧ (∀ g, word 0x4008 g → exec (.nmask g) w = .next x) ∧
        (written 0x400A = none → written 0x400B = none → t = x) ∧
        (written 0x400A ≠ none ∨ written 0x400B ≠ none → exec .nudge x = .next t))) ∧
  (∀ (s : State) (bytes : List Byte), exec (.spiQuadWrite bytes) s = exec (.spiWrite bytes) s) ∧
  (∀ (s : State) (bytes : List Byte), resetHeld s = false → bytes.length < 2 →
    exec (.spiWrite bytes) s = .next { s with port := { s.port with reading := none } } ∧
    exec (.spiQuadWrite bytes) s = .next { s with port := { s.port with reading := none } }) ∧
  (∀ (s : State) (hi lo : Byte) (data : List Byte),
    exec (.spiWrite (hi :: lo :: data)) s = exec (.spiWrite (hi :: lo :: data.take 256)) s) ∧
  (∀ (s : State) (v : Half), let bytes (a : Byte) : List Byte := [0x40, a, v.extractLsb' 0 8, v.extractLsb' 8 8]
    exec (.spiWrite (bytes 0x00)) s = exec (.registerWrite .partid v) s ∧
    (v.getLsbD 1 = true → exec (.spiWrite (bytes 0x02)) s = exec .warmReset s) ∧
    (v.getLsbD 1 = false → v.getLsbD 0 = true → exec (.spiWrite (bytes 0x02)) s = exec .runWritten1 s) ∧
    (v.getLsbD 1 = false → v.getLsbD 0 = false → exec (.spiWrite (bytes 0x02)) s = exec .runWritten0 s) ∧
    exec (.spiWrite (bytes 0x04)) s = exec (.registerWrite .gstate v) s ∧
    exec (.spiWrite (bytes 0x06)) s = exec (.ncauseClear v) s ∧
    exec (.spiWrite (bytes 0x08)) s = exec (.nmask v) s ∧
    exec (.spiWrite (bytes 0x0A)) s = exec .nudge s) ∧
  (∀ (s : State) (notify : Bool), MapLaw s → resetHeld s = false →
    let a : Half := BitVec.ofNat 16 (entryAddr s.directives.cursor)
    let half (h : Half) : List Byte := [h.extractLsb' 0 8, h.extractLsb' 8 8]
    let posts (row : Instr) (kind : Byte) (arguments : List Byte) : Prop := ∃ t,
      exec (.spiWrite ([a.extractLsb' 8 8, a.extractLsb' 0 8, 1, kind, if notify then 1 else 0, 0] ++ arguments ++
        List.replicate (20 - arguments.length) 0)) s = .next t ∧ exec row s = exec .nudge t
    (∀ n lengthCode m watch, posts (.slotSetup n lengthCode m watch notify) 0x01 (half n ++ [lengthCode, m, watch])) ∧
    (∀ chain tsoft floor fallback, posts (.chainSetup chain tsoft floor fallback notify) 0x02
      ([chain, 0] ++ half tsoft ++ half floor ++ half fallback)) ∧
    (∀ id trip dwell recovery hold cap, posts (.conditionSetup id trip dwell recovery hold cap notify) 0x03
      ([id, 0] ++ half trip ++ half dwell ++ half recovery ++ half hold ++ half cap)) ∧
    (∀ budget, posts (.supplySetup budget notify) 0x04 (half budget)) ∧
    (∀ channel intercept slope, posts (.sensorSetup channel intercept slope notify) 0x05
      ([channel, 0] ++ half intercept ++ half slope)) ∧
    (∀ j, posts (.profileLoad j notify) 0x06 [j]) ∧ (∀ j, posts (.profileDrop j notify) 0x07 [j]) ∧
    posts (.calibrate notify) 0x08 [] ∧ posts (.selftest notify) 0x09 [] ∧
    (∀ (count : Byte) (tags : Vector Byte 8) (decimation : Byte) (threshold : Half),
      posts (.captureStart count tags decimation threshold notify) 0x0A
        ([count, tags[0], tags[1], tags[2], tags[3], tags[4], tags[5], tags[6], tags[7], decimation] ++ half threshold)) ∧
    posts (.captureStop notify) 0x0B [] ∧ (∀ chain, posts (.releaseLatch chain notify) 0x0C [chain]) ∧
    (∀ n, posts (.pause n notify) 0x0D [n]) ∧ posts (.clearPending notify) 0x0E []) ∧
  (∀ (s : State) (bytes : List Byte) (cut : List Bool), resetHeld s = false →
    let carried (cs : List Instr) : Prop := lineEvents (transaction bytes cut) s =
      { s with port := { s.port with incoming := none }, pending := s.pending ++ cs }
    (∀ rest, bytes = 0xA2 :: rest → 2 ≤ rest.length → carried [.spiWrite rest]) ∧
    (∀ rest, bytes = 0xB2 :: rest → 2 ≤ rest.length → carried [.spiQuadWrite rest]) ∧
    (bytes.length < 3 → carried []) ∧
    (∀ command rest, bytes = command :: rest → command ≠ 0xA2 → command ≠ 0xA3 → command ≠ 0xB2 → command ≠ 0xB3 →
      carried [])) ∧
  (∀ (s : State) (e : LineEvent), resetHeld s = true → lineEvent e s = s) ∧
  (∀ (s : State) (e : LineEvent), s.port.incoming = none → e ≠ .csFalls → lineEvent e s = s) ∧
  ∀ (i : Instr) (s t : State), exec i s = .next t →
    (raises i .powerOn = false → raises i .warm = false → t.port.incoming = s.port.incoming) ∧
    (i = .powerOnReset ∨ (resetHeld s = false ∧ (i = .resetN ∨ i = .warmReset)) → t.port.incoming = none)

/-- R178, R181, R184, R189: a read is sent from the snapshots of its blocks, a new one at each multiple of 64, and the status
board is published whole. R179: an incomplete address sends nothing and takes no snapshot. R190: the fields of the structures
the part writes, read back at their offsets, with the codes, the byte order and the addresses. The model's choices: the cutting
of a read into stretches (log entry 15), a stretch of a read that is not in progress on its lines changes nothing (log entry 4),
the lines queue the commands (log entry 30). -/
def Obligations.ReadsAndTheStatusBoard : Prop :=
  (∀ (s : State) (quad : Bool) (hi lo : Byte) (n : Nat) (last : Bool), resetHeld s = false →
    let start : Half := hi ++ lo
    let command : Instr := if quad then .spiQuadRead (.start [hi, lo] n last) else .spiRead (.start [hi, lo] n last)
    ∃ t, exec command s = .next t ∧
      t.port.sent = (List.range n).map (fun i => portByte s (start + BitVec.ofNat 16 i)) ∧
      (last = true → t.port.reading = none) ∧
      (last = false → ∃ block, t.port.reading = some ⟨quad, start + BitVec.ofNat 16 n, block⟩ ∧
        (0 < n → block = (List.range 64).map fun i =>
          portByte s (((start + BitVec.ofNat 16 (n - 1)) &&& 0xFFC0) + BitVec.ofNat 16 i))) ∧
      t = { s with port := { s.port with reading := t.port.reading, sent := t.port.sent } }) ∧
  (∀ (s : State) (quad : Bool) (next : Half) (block : List Byte) (n : Nat) (last : Bool), resetHeld s = false →
    s.port.reading = some ⟨quad, next, block⟩ → block = [] ∨ block.length = 64 →
    let command : Instr := if quad then .spiQuadRead (.more n last) else .spiRead (.more n last)
    let kept : Nat := if block = [] ∨ next.toNat % 64 = 0 then 0 else 64 - next.toNat % 64
    ∃ t, exec command s = .next t ∧
      (n ≤ kept → t.port.sent = (block.drop (next.toNat % 64)).take n) ∧
      (kept < n → t.port.sent = (block.drop (next.toNat % 64)).take kept ++
        (List.range (n - kept)).map fun i => portByte s (next + BitVec.ofNat 16 (kept + i))) ∧
      (last = true → t.port.reading = none) ∧
      (last = false → ∃ held, t.port.reading = some ⟨quad, next + BitVec.ofNat 16 n, held⟩ ∧ (n ≤ kept → held = block) ∧
        (kept < n → held = (List.range 64).map fun i =>
          portByte s (((next + BitVec.ofNat 16 (n - 1)) &&& 0xFFC0) + BitVec.ofNat 16 i))) ∧
      t = { s with port := { s.port with reading := t.port.reading, sent := t.port.sent } }) ∧
  (∀ (s : State) (n : Nat) (last : Bool),
    ((∀ r, s.port.reading = some r → r.quad = true) → exec (.spiRead (.more n last)) s = .next s) ∧
    ((∀ r, s.port.reading = some r → r.quad = false) → exec (.spiQuadRead (.more n last)) s = .next s)) ∧
  (∀ (s : State) (address : List Byte) (n : Nat) (last : Bool), resetHeld s = false → address.length < 2 →
    let ignored : State := { s with port := { s.port with reading := none, sent := [] } }
    exec (.spiRead (.start address n last)) s = .next ignored ∧ exec (.spiQuadRead (.start address n last)) s = .next ignored) ∧
  (∀ (s : State) (hi lo dummy : Byte) (data : List Byte) (cut : List Bool), resetHeld s = false →
    let carried (command : Byte) (cs : List Instr) : Prop :=
      lineEvents (transaction (command :: hi :: lo :: dummy :: data) cut) s =
        { s with port := { s.port with incoming := none }, pending := s.pending ++ cs }
    (data = [] → carried 0xA3 [] ∧ carried 0xB3 []) ∧
    (data ≠ [] →
      carried 0xA3 (.spiRead (.start [hi, lo] 1 false) ::
        (List.replicate (data.length - 1) (.spiRead (.more 1 false)) ++ [.spiRead (.more 0 true)])) ∧
      carried 0xB3 (.spiQuadRead (.start [hi, lo] 1 false) ::
        (List.replicate (data.length - 1) (.spiQuadRead (.more 1 false)) ++ [.spiQuadRead (.more 0 true)])))) ∧
  (∀ (s : State) (a : Half), (a.toNat < 0x4000 → portByte s a = memRead s.xm a.toNat) ∧
    (0x400C ≤ a.toNat → portByte s a = 0)) ∧
  (∀ s : State, portByte s 0x4000 = 0x22 ∧ portByte s 0x4001 = 0x48 ∧
    portByte s 0x4002 = (if s.governor.run then 1 else 0) ∧ portByte s 0x4003 = 0 ∧
    portByte s 0x4004 = s.governor.state.code ||| (s.governor.reason.code <<< 4) ∧ portByte s 0x4005 = 0 ∧
    portByte s 0x4006 = s.port.ncause.setWidth 8 ∧ portByte s 0x4007 = 0 ∧
    portByte s 0x4008 = s.port.nmask.setWidth 8 ∧ portByte s 0x4009 = 0 ∧
    portByte s 0x400A = 0 ∧ portByte s 0x400B = 0) ∧
  (∀ s : State, resetHeld s = false → ∃ t, exec .statusBoardPublication s = .next t ∧
    memBytes t.xm 0x0040 448 = boardBytes s ∧ MemoryKept (InRun 0x0040 448) s t ∧ t = { s with xm := t.xm }) ∧
  (∀ (m : Memory) (a n : Nat), memRead16 m a = memRead m (a + 1) ++ memRead m a ∧
    memBytes m a n = (List.range n).map fun i => memRead m (a + i)) ∧
  (∀ n : Half, intentAddr n = 0x0200 + 32 * (n.toNat % 16) ∧ outcomeAddr n = 0x0400 + 64 * (n.toNat % 16)) ∧
  (∀ e : BitVec 5, entryAddr e = 0x0800 + 32 * e.toNat) ∧ (∀ c : Chain, faultAddr c = 0x0C00 + 64 * c.val) ∧
  (∀ h : Half, le16 h = [h.extractLsb' 0 8, h.extractLsb' 8 8]) ∧ (∀ n, n < 65536 → (u16 n).toNat = n) ∧
  (∀ x : Int, -32768 ≤ x → x < 32768 → (i16 x).toInt = x) ∧ (∀ p, powerField (some p) = i16 p) ∧
  (∀ (m : Memory) (a : Nat),
    (∀ o, memBytes m a 64 = outcomeBytes o → OutcomeAt m a o) ∧ (∀ f, memBytes m a 64 = faultBytes f → FaultAt m a f) ∧
    (∀ r, memBytes m a 8 = captureBytes r → RecordAt m a r) ∧
    (∀ s, memBytes m 0x0040 448 = boardBytes s → BoardAt m s)) ∧
  [ResultCode.ok, .unknownKind, .badArgument, .refusedState, .conditionPresent, .profileInvalid, .calFailed, .aborted].map
    ResultCode.code = [0, 1, 2, 3, 4, 5, 6, 7] ∧
  [ChainState.off, .on, .muted].map ChainState.code = [0, 1, 2] ∧
  [Reason.none, .requestClamp, .thermal, .protection, .supply, .attenRange, .noProfile, .cut, .lock, .driveLink, .missed,
    .governor, .off].map Reason.code = [0, 1, 2, 3, 4, 5, 6, 7, 8, 9, 10, 11, 12] ∧
  [Status.taken, .held, .missed, .unprepared, .cancelled].map Status.code = [1, 2, 3, 4, 5] ∧
  [DriveResult.ok, .late, .failed].map DriveResult.code = [0, 1, 2] ∧
  [GovState.init, .idle, .running, .stopping, .stopped].map GovState.code = [0, 1, 2, 3, 4] ∧
  [StopReason.none, .slotFlowLost, .sensorsLost].map StopReason.code = [0, 1, 2] ∧
  [CondState.clear, .alert, .tripped, .holdoff, .latched].map CondState.code = [0, 1, 2, 3, 4] ∧
  powerField none = 0x8000 ∧ ∀ (e : Bool) (n : Nat), n < 128 → (DriveWord.code ⟨e, n⟩).toNat = (if e then 128 else 0) + n

/-- R178, R182, R183: exchange memory keeps its canonical form, its unassigned addresses read 0, and the header shows the
layout version, N, the cursor, the step counter, W and the lost count as their owners hold them. -/
def Obligations.EveryStepKeepsTheMapAndTheHeader : Prop :=
  StepKeeps MapLaw ∧ StepKeeps HeaderLaw
end

