-- ==== Sys2Proof/Laws/Memory.lean ====
section
/-! SUPPORT. The laws of exchange memory: what a read gives after a store, and that every store keeps the canonical
form. -/

namespace Sys2Proof.Machine

@[simp] theorem memRead_nil (x : Nat) : memRead [] x = 0 := rfl

@[simp] theorem memRead_cons (k : Nat) (b : Byte) (m : Memory) (x : Nat) :
    memRead ((k, b) :: m) x = if k = x then b else memRead m x := rfl

/-- A read finds nothing where no cell has the address. -/
theorem memRead_eq_zero {m : Memory} {x : Nat} (h : ∀ p ∈ m, p.1 ≠ x) : memRead m x = 0 := by
  induction m with
  | nil => rfl
  | cons p m ih =>
    obtain ⟨k, b⟩ := p
    have hk : k ≠ x := h (k, b) (by simp)
    simp [hk, ih fun q hq => h q (by simp [hq])]

/-- A read of two lists of cells, the second free of the address. -/
theorem memRead_append_left {m n : Memory} {x : Nat} (h : ∀ p ∈ n, p.1 ≠ x) :
    memRead (m ++ n) x = memRead m x := by
  induction m with
  | nil => simp [memRead_eq_zero h]
  | cons p m ih => obtain ⟨k, b⟩ := p; simp [ih]

/-- A read of two lists of cells, the first free of the address. -/
theorem memRead_append_right {m n : Memory} {x : Nat} (h : ∀ p ∈ m, p.1 ≠ x) :
    memRead (m ++ n) x = memRead n x := by
  induction m with
  | nil => rfl
  | cons p m ih =>
    obtain ⟨k, b⟩ := p
    have hk : k ≠ x := h (k, b) (by simp)
    simp [hk, ih fun q hq => h q (by simp [hq])]

/-- A filter that keeps every cell of an address keeps its read. -/
theorem memRead_filter {m : Memory} {x : Nat} {q : Nat → Bool} (h : q x = true) :
    memRead (m.filter fun c => q c.1) x = memRead m x := by
  induction m with
  | nil => rfl
  | cons p m ih =>
    obtain ⟨k, b⟩ := p
    by_cases hq : q k = true
    · simp [List.filter, hq, ih]
    · have hk : k ≠ x := fun e => hq (e ▸ h)
      simp [List.filter, hq, hk, ih]

/-- The addresses of a run of cells. -/
theorem cellsOf_mem {a : Nat} {bs : List Byte} {p : Host.Cell} (h : p ∈ cellsOf a bs) :
    a ≤ p.1 ∧ p.1 < a + bs.length ∧ p.2 ≠ 0 := by
  induction bs generalizing a with
  | nil => simp [cellsOf] at h
  | cons b bs ih =>
    rw [cellsOf] at h
    split at h
    · obtain ⟨h1, h2, h3⟩ := ih h
      exact ⟨by omega, by simp only [List.length_cons]; omega, h3⟩
    · rcases List.mem_cons.1 h with rfl | h
      · exact ⟨le_rfl, by simp, by assumption⟩
      · obtain ⟨h1, h2, h3⟩ := ih h
        exact ⟨by omega, by simp only [List.length_cons]; omega, h3⟩

/-- What a run of cells reads as: its bytes, 0 around them. -/
theorem memRead_cellsOf (a : Nat) (bs : List Byte) (x : Nat) :
    memRead (cellsOf a bs) x = if a ≤ x then bs.getD (x - a) 0 else 0 := by
  induction bs generalizing a with
  | nil => simp [cellsOf]
  | cons b bs ih =>
    rw [cellsOf]
    by_cases hx : a = x
    · subst hx
      have h0 : memRead (cellsOf (a + 1) bs) a = 0 :=
        memRead_eq_zero fun p hp => by have := cellsOf_mem hp; omega
      split
      · next hb => simp [h0, hb]
      · simp
    · have hd : memRead (if b = 0 then cellsOf (a + 1) bs else (a, b) :: cellsOf (a + 1) bs) x =
          memRead (cellsOf (a + 1) bs) x := by
        split <;> simp [hx]
      rw [hd, ih]
      by_cases hle : a ≤ x
      · have h1 : a + 1 ≤ x := by omega
        have h2 : x - a = (x - (a + 1)) + 1 := by omega
        rw [if_pos h1, if_pos hle, h2, List.getD_cons_succ]
      · rw [if_neg (by omega), if_neg hle]

/-- The one law of a store: its bytes at its addresses, every other byte as before. -/
theorem memRead_memStore (m : Memory) (a : Nat) (bs : List Byte) (x : Nat) :
    memRead (memStore m a bs) x = if a ≤ x ∧ x < a + bs.length then bs.getD (x - a) 0 else memRead m x := by
  unfold memStore
  by_cases hlo : x < a
  · rw [memRead_append_left (by intro p hp; simp at hp; omega),
      memRead_append_left (fun p hp => by have := cellsOf_mem hp; omega),
      memRead_filter (q := fun k => decide (k < a)) (by simpa using hlo), if_neg (by omega)]
  · by_cases hhi : x < a + bs.length
    · rw [memRead_append_left (by intro p hp; simp at hp; omega),
        memRead_append_right (by intro p hp; simp at hp; omega), memRead_cellsOf, if_pos (by omega),
        if_pos (by omega)]
    · rw [memRead_append_right, memRead_filter (q := fun k => decide (a + bs.length ≤ k)) (by simpa using hhi),
        if_neg (by omega)]
      intro p hp
      rcases List.mem_append.1 hp with hp | hp
      · simp at hp; omega
      · have := cellsOf_mem hp; omega

/-- A byte outside a store reads as before. -/
theorem memRead_memStore_of_outside {m : Memory} {a : Nat} {bs : List Byte} {x : Nat}
    (h : x < a ∨ a + bs.length ≤ x) : memRead (memStore m a bs) x = memRead m x := by
  rw [memRead_memStore, if_neg (by omega)]

/-- A byte inside a store reads as the byte stored. -/
theorem memRead_memStore_of_inside {m : Memory} {a : Nat} {bs : List Byte} {i : Nat} (h : i < bs.length) :
    memRead (memStore m a bs) (a + i) = bs.getD i 0 := by
  rw [memRead_memStore, if_pos (by omega), Nat.add_sub_cancel_left]

/-- The cells of a run rise strictly. -/
theorem cellsOf_pairwise (a : Nat) (bs : List Byte) : (cellsOf a bs).Pairwise fun p q => p.1 < q.1 := by
  induction bs generalizing a with
  | nil => simp [cellsOf]
  | cons b bs ih =>
    rw [cellsOf]
    split
    · exact ih _
    · refine List.pairwise_cons.2 ⟨fun q hq => ?_, ih _⟩
      have := cellsOf_mem hq
      show a < q.1
      omega

/-- A store keeps the canonical form. -/
theorem memStore_wf {m : Memory} (h : m.wf) (a : Nat) (bs : List Byte) : (memStore m a bs).wf := by
  refine ⟨?_, ?_⟩
  · unfold memStore
    rw [List.pairwise_append, List.pairwise_append]
    refine ⟨⟨h.1.sublist List.filter_sublist, cellsOf_pairwise _ _, ?_⟩, h.1.sublist List.filter_sublist, ?_⟩
    · intro p hp q hq
      have := cellsOf_mem hq
      simp at hp
      omega
    · intro p hp q hq
      simp at hq
      rcases List.mem_append.1 hp with hp | hp
      · simp at hp; omega
      · have := cellsOf_mem hp; omega
  · intro p hp
    simp only [memStore, List.mem_append] at hp
    rcases hp with (hp | hp) | hp
    · exact h.2 p (List.mem_filter.1 hp).1
    · exact (cellsOf_mem hp).2.2
    · exact h.2 p (List.mem_filter.1 hp).1

/-- Memories in canonical form that read alike are equal. -/
theorem Memory.ext_of_wf {m n : Memory} (hm : m.wf) (hn : n.wf) (h : ∀ x, memRead m x = memRead n x) : m = n := by
  induction m generalizing n with
  | nil =>
    cases n with
    | nil => rfl
    | cons q n =>
      have := h q.1
      obtain ⟨k, b⟩ := q
      have hb := hn.2 (k, b) (by simp)
      simp at this
      exact absurd this.symm hb
  | cons p m ih =>
    obtain ⟨k, b⟩ := p
    cases n with
    | nil =>
      have := h k
      have hb := hm.2 (k, b) (by simp)
      simp at this
      exact absurd this hb
    | cons q n =>
      obtain ⟨l, d⟩ := q
      have hmk := List.pairwise_cons.1 hm.1
      have hnl := List.pairwise_cons.1 hn.1
      have hkl : k = l := by
        rcases Nat.lt_trichotomy k l with hlt | heq | hgt
        · have hk := h k
          rw [memRead_cons, if_pos rfl, memRead_cons, if_neg (by omega),
            memRead_eq_zero fun q hq => by have := hnl.1 q hq; dsimp only at this; omega] at hk
          exact absurd hk (hm.2 (k, b) (by simp))
        · exact heq
        · have hl := h l
          rw [memRead_cons, if_neg (by omega), memRead_cons, if_pos rfl,
            memRead_eq_zero fun q hq => by have := hmk.1 q hq; dsimp only at this; omega] at hl
          exact absurd hl.symm (hn.2 (l, d) (by simp))
      subst hkl
      have hb : b = d := by simpa using h k
      subst hb
      congr 1
      refine ih ⟨hmk.2, fun q hq => hm.2 q (by simp [hq])⟩ ⟨hnl.2, fun q hq => hn.2 q (by simp [hq])⟩ fun x => ?_
      by_cases hx : k = x
      · subst hx
        rw [memRead_eq_zero fun q hq => by have := hmk.1 q hq; dsimp only at this; omega,
          memRead_eq_zero fun q hq => by have := hnl.1 q hq; dsimp only at this; omega]
      · simpa [hx] using h x

/-! ### Fields -/

@[simp] theorem le16_length (v : Half) : (le16 v).length = 2 := rfl
@[simp] theorem le32_length (v : Stamp) : (le32 v).length = 4 := rfl
@[simp] theorem zeros_length (n : Nat) : (zeros n).length = n := List.length_replicate
@[simp] theorem memBytes_length (m : Memory) (a n : Nat) : (memBytes m a n).length = n := by simp [memBytes]

@[simp] theorem zeros_getD (n i : Nat) : (zeros n).getD i 0 = 0 := by
  simp only [zeros, List.getD_eq_getElem?_getD, List.getElem?_replicate]
  split <;> rfl

/-- The two bytes of a 16-bit field put together again. -/
theorem le16_join (v : Half) : (v.extractLsb' 8 8 ++ v.extractLsb' 0 8 : Half) = v := by
  ext i hi
  simp only [BitVec.getElem_append, BitVec.getElem_extractLsb']
  split <;> rename_i h
  · simp [BitVec.getLsbD_eq_getElem hi]
  · have : 8 + (i - 8) = i := by omega
    simp [this, BitVec.getLsbD_eq_getElem hi]

/-- A 16-bit field reads back from the two bytes stored. -/
theorem memRead16_memStore_le16 (m : Memory) (a : Nat) (v : Half) : memRead16 (memStore m a (le16 v)) a = v := by
  have h0 := memRead_memStore_of_inside (m := m) (a := a) (bs := le16 v) (i := 0) (by simp)
  have h1 := memRead_memStore_of_inside (m := m) (a := a) (bs := le16 v) (i := 1) (by simp)
  rw [memRead16, h1, ← Nat.add_zero a]
  rw [Nat.add_zero a] at h0 ⊢
  rw [h0]
  exact le16_join v

/-- A 16-bit field outside a store reads as before. -/
theorem memRead16_memStore_of_outside {m : Memory} {a : Nat} {bs : List Byte} {x : Nat}
    (h : x + 1 < a ∨ a + bs.length ≤ x) : memRead16 (memStore m a bs) x = memRead16 m x := by
  rw [memRead16, memRead16, memRead_memStore_of_outside (by omega), memRead_memStore_of_outside (by omega)]

/-- The bytes read back from where they were stored. -/
theorem memBytes_memStore (m : Memory) (a : Nat) (bs : List Byte) : memBytes (memStore m a bs) a bs.length = bs := by
  apply List.ext_getElem (by simp)
  intro i h1 h2
  simp only [memBytes, List.getElem_map, List.getElem_range]
  rw [memRead_memStore_of_inside h2, List.getD_eq_getElem?_getD, List.getElem?_eq_getElem h2]
  rfl

/-- Bytes outside a store read as before. -/
theorem memBytes_memStore_of_outside {m : Memory} {a n x : Nat} {bs : List Byte}
    (h : x + n ≤ a ∨ a + bs.length ≤ x) : memBytes (memStore m a bs) x n = memBytes m x n := by
  unfold memBytes
  refine List.map_congr_left fun i hi => ?_
  rw [List.mem_range] at hi
  exact memRead_memStore_of_outside (by omega)

/-- A byte of a run whose bytes are known. -/
theorem memRead_of_memBytes {m : Memory} {a n : Nat} {l : List Byte} (h : memBytes m a n = l) (i : Nat) (hi : i < n) :
    memRead m (a + i) = l.getD i 0 := by
  rw [← h]
  simp [memBytes, hi]

end Sys2Proof.Machine
end

