-- ==== Sys2Proof/Laws/State.lean ====
section
/-! SUPPORT. The small laws of the plain data: one value per chain, and each field of the state after each shared
update of it. -/

namespace Sys2Proof

/-! ### One value per chain -/

@[simp] theorem PerChain.get_ofFn {α : Type} (f : Chain → α) (c : Chain) : (PerChain.ofFn f).get c = f c := by
  fin_cases c <;> rfl

@[simp] theorem PerChain.get_fill {α : Type} (a : α) (c : Chain) : (PerChain.fill a).get c = a := by
  fin_cases c <;> rfl

@[simp] theorem PerChain.get_mapIdx {α β : Type} (f : Chain → α → β) (v : PerChain α) (c : Chain) :
    (v.mapIdx f).get c = f c (v.get c) := by
  simp [PerChain.mapIdx]

@[simp] theorem PerChain.get_set {α : Type} (v : PerChain α) (c d : Chain) (a : α) :
    (v.set c a).get d = if d = c then a else v.get d := by
  simp [PerChain.set]

/-- Equal on every chain, equal. -/
theorem PerChain.ext_get {α : Type} {v w : PerChain α} (h : ∀ c, v.get c = w.get c) : v = w := by
  obtain ⟨a, b, c, d⟩ := v
  obtain ⟨a', b', c', d'⟩ := w
  have h0 : a = a' := h 0
  have h1 : b = b' := h 1
  have h2 : c = c' := h 2
  have h3 : d = d' := h 3
  subst h0 h1 h2 h3
  rfl

@[simp] theorem PerChain.ofFn_get {α : Type} (v : PerChain α) : PerChain.ofFn v.get = v :=
  PerChain.ext_get fun c => by simp

@[simp] theorem vmapIdx_get {α β : Type} {n : Nat} (f : Fin n → α → β) (v : Vector α n) (i : Fin n) :
    (vmapIdx f v)[i] = f i v[i] := by
  simp [vmapIdx]

namespace Machine

/-! ### partWrite -/

@[simp] theorem partWrite_slot (a : Nat) (bs : List Byte) (s : State) : (partWrite a bs s).slot = s.slot := rfl
@[simp] theorem partWrite_config (a : Nat) (bs : List Byte) (s : State) : (partWrite a bs s).config = s.config := rfl
@[simp] theorem partWrite_supply (a : Nat) (bs : List Byte) (s : State) : (partWrite a bs s).supply = s.supply := rfl
@[simp] theorem partWrite_thermal (a : Nat) (bs : List Byte) (s : State) : (partWrite a bs s).thermal = s.thermal := rfl
@[simp] theorem partWrite_store (a : Nat) (bs : List Byte) (s : State) : (partWrite a bs s).store = s.store := rfl
@[simp] theorem partWrite_supervisor (a : Nat) (bs : List Byte) (s : State) : (partWrite a bs s).supervisor = s.supervisor := rfl
@[simp] theorem partWrite_sensors (a : Nat) (bs : List Byte) (s : State) : (partWrite a bs s).sensors = s.sensors := rfl
@[simp] theorem partWrite_drive (a : Nat) (bs : List Byte) (s : State) : (partWrite a bs s).drive = s.drive := rfl
@[simp] theorem partWrite_directives (a : Nat) (bs : List Byte) (s : State) : (partWrite a bs s).directives = s.directives := rfl
@[simp] theorem partWrite_capture (a : Nat) (bs : List Byte) (s : State) : (partWrite a bs s).capture = s.capture := rfl
@[simp] theorem partWrite_governor (a : Nat) (bs : List Byte) (s : State) : (partWrite a bs s).governor = s.governor := rfl
@[simp] theorem partWrite_port (a : Nat) (bs : List Byte) (s : State) : (partWrite a bs s).port = s.port := rfl
@[simp] theorem partWrite_pins (a : Nat) (bs : List Byte) (s : State) : (partWrite a bs s).pins = s.pins := rfl
@[simp] theorem partWrite_xm (a : Nat) (bs : List Byte) (s : State) : (partWrite a bs s).xm = memStore s.xm a bs := rfl
@[simp] theorem partWrite_pending (a : Nat) (bs : List Byte) (s : State) : (partWrite a bs s).pending = s.pending := rfl

/-! ### setCause -/

@[simp] theorem setCause_slot (k : Cause) (s : State) : (setCause k s).slot = s.slot := rfl
@[simp] theorem setCause_config (k : Cause) (s : State) : (setCause k s).config = s.config := rfl
@[simp] theorem setCause_supply (k : Cause) (s : State) : (setCause k s).supply = s.supply := rfl
@[simp] theorem setCause_thermal (k : Cause) (s : State) : (setCause k s).thermal = s.thermal := rfl
@[simp] theorem setCause_store (k : Cause) (s : State) : (setCause k s).store = s.store := rfl
@[simp] theorem setCause_supervisor (k : Cause) (s : State) : (setCause k s).supervisor = s.supervisor := rfl
@[simp] theorem setCause_sensors (k : Cause) (s : State) : (setCause k s).sensors = s.sensors := rfl
@[simp] theorem setCause_drive (k : Cause) (s : State) : (setCause k s).drive = s.drive := rfl
@[simp] theorem setCause_directives (k : Cause) (s : State) : (setCause k s).directives = s.directives := rfl
@[simp] theorem setCause_capture (k : Cause) (s : State) : (setCause k s).capture = s.capture := rfl
@[simp] theorem setCause_governor (k : Cause) (s : State) : (setCause k s).governor = s.governor := rfl
@[simp] theorem setCause_port (k : Cause) (s : State) : (setCause k s).port = { s.port with ncause := s.port.ncause ||| k.mask } := rfl
@[simp] theorem setCause_pins (k : Cause) (s : State) : (setCause k s).pins = s.pins := rfl
@[simp] theorem setCause_xm (k : Cause) (s : State) : (setCause k s).xm = s.xm := rfl
@[simp] theorem setCause_pending (k : Cause) (s : State) : (setCause k s).pending = s.pending := rfl

/-! ### clearCauses -/

@[simp] theorem clearCauses_slot (b : BitVec 6) (s : State) : (clearCauses b s).slot = s.slot := rfl
@[simp] theorem clearCauses_config (b : BitVec 6) (s : State) : (clearCauses b s).config = s.config := rfl
@[simp] theorem clearCauses_supply (b : BitVec 6) (s : State) : (clearCauses b s).supply = s.supply := rfl
@[simp] theorem clearCauses_thermal (b : BitVec 6) (s : State) : (clearCauses b s).thermal = s.thermal := rfl
@[simp] theorem clearCauses_store (b : BitVec 6) (s : State) : (clearCauses b s).store = s.store := rfl
@[simp] theorem clearCauses_supervisor (b : BitVec 6) (s : State) : (clearCauses b s).supervisor = s.supervisor := rfl
@[simp] theorem clearCauses_sensors (b : BitVec 6) (s : State) : (clearCauses b s).sensors = s.sensors := rfl
@[simp] theorem clearCauses_drive (b : BitVec 6) (s : State) : (clearCauses b s).drive = s.drive := rfl
@[simp] theorem clearCauses_directives (b : BitVec 6) (s : State) : (clearCauses b s).directives = s.directives := rfl
@[simp] theorem clearCauses_capture (b : BitVec 6) (s : State) : (clearCauses b s).capture = s.capture := rfl
@[simp] theorem clearCauses_governor (b : BitVec 6) (s : State) : (clearCauses b s).governor = s.governor := rfl
@[simp] theorem clearCauses_port (b : BitVec 6) (s : State) : (clearCauses b s).port = { s.port with ncause := s.port.ncause &&& ~~~b } := rfl
@[simp] theorem clearCauses_pins (b : BitVec 6) (s : State) : (clearCauses b s).pins = s.pins := rfl
@[simp] theorem clearCauses_xm (b : BitVec 6) (s : State) : (clearCauses b s).xm = s.xm := rfl
@[simp] theorem clearCauses_pending (b : BitVec 6) (s : State) : (clearCauses b s).pending = s.pending := rfl

/-! ### mapDrive -/

@[simp] theorem mapDrive_slot (f : Chain → DriveRecord → DriveRecord) (s : State) : (mapDrive f s).slot = s.slot := rfl
@[simp] theorem mapDrive_config (f : Chain → DriveRecord → DriveRecord) (s : State) : (mapDrive f s).config = s.config := rfl
@[simp] theorem mapDrive_supply (f : Chain → DriveRecord → DriveRecord) (s : State) : (mapDrive f s).supply = s.supply := rfl
@[simp] theorem mapDrive_thermal (f : Chain → DriveRecord → DriveRecord) (s : State) : (mapDrive f s).thermal = s.thermal := rfl
@[simp] theorem mapDrive_store (f : Chain → DriveRecord → DriveRecord) (s : State) : (mapDrive f s).store = s.store := rfl
@[simp] theorem mapDrive_supervisor (f : Chain → DriveRecord → DriveRecord) (s : State) : (mapDrive f s).supervisor = s.supervisor := rfl
@[simp] theorem mapDrive_sensors (f : Chain → DriveRecord → DriveRecord) (s : State) : (mapDrive f s).sensors = s.sensors := rfl
@[simp] theorem mapDrive_drive (f : Chain → DriveRecord → DriveRecord) (s : State) : (mapDrive f s).drive = { s.drive with chains := s.drive.chains.mapIdx f } := rfl
@[simp] theorem mapDrive_directives (f : Chain → DriveRecord → DriveRecord) (s : State) : (mapDrive f s).directives = s.directives := rfl
@[simp] theorem mapDrive_capture (f : Chain → DriveRecord → DriveRecord) (s : State) : (mapDrive f s).capture = s.capture := rfl
@[simp] theorem mapDrive_governor (f : Chain → DriveRecord → DriveRecord) (s : State) : (mapDrive f s).governor = s.governor := rfl
@[simp] theorem mapDrive_port (f : Chain → DriveRecord → DriveRecord) (s : State) : (mapDrive f s).port = s.port := rfl
@[simp] theorem mapDrive_pins (f : Chain → DriveRecord → DriveRecord) (s : State) : (mapDrive f s).pins = s.pins := rfl
@[simp] theorem mapDrive_xm (f : Chain → DriveRecord → DriveRecord) (s : State) : (mapDrive f s).xm = s.xm := rfl
@[simp] theorem mapDrive_pending (f : Chain → DriveRecord → DriveRecord) (s : State) : (mapDrive f s).pending = s.pending := rfl

/-! ### mapGovernor -/

@[simp] theorem mapGovernor_slot (f : Governor → Governor) (s : State) : (mapGovernor f s).slot = s.slot := rfl
@[simp] theorem mapGovernor_config (f : Governor → Governor) (s : State) : (mapGovernor f s).config = s.config := rfl
@[simp] theorem mapGovernor_supply (f : Governor → Governor) (s : State) : (mapGovernor f s).supply = s.supply := rfl
@[simp] theorem mapGovernor_thermal (f : Governor → Governor) (s : State) : (mapGovernor f s).thermal = s.thermal := rfl
@[simp] theorem mapGovernor_store (f : Governor → Governor) (s : State) : (mapGovernor f s).store = s.store := rfl
@[simp] theorem mapGovernor_supervisor (f : Governor → Governor) (s : State) : (mapGovernor f s).supervisor = s.supervisor := rfl
@[simp] theorem mapGovernor_sensors (f : Governor → Governor) (s : State) : (mapGovernor f s).sensors = s.sensors := rfl
@[simp] theorem mapGovernor_drive (f : Governor → Governor) (s : State) : (mapGovernor f s).drive = s.drive := rfl
@[simp] theorem mapGovernor_directives (f : Governor → Governor) (s : State) : (mapGovernor f s).directives = s.directives := rfl
@[simp] theorem mapGovernor_capture (f : Governor → Governor) (s : State) : (mapGovernor f s).capture = s.capture := rfl
@[simp] theorem mapGovernor_governor (f : Governor → Governor) (s : State) : (mapGovernor f s).governor = f s.governor := rfl
@[simp] theorem mapGovernor_port (f : Governor → Governor) (s : State) : (mapGovernor f s).port = s.port := rfl
@[simp] theorem mapGovernor_pins (f : Governor → Governor) (s : State) : (mapGovernor f s).pins = s.pins := rfl
@[simp] theorem mapGovernor_xm (f : Governor → Governor) (s : State) : (mapGovernor f s).xm = s.xm := rfl
@[simp] theorem mapGovernor_pending (f : Governor → Governor) (s : State) : (mapGovernor f s).pending = s.pending := rfl

/-! ### mapSensors -/

@[simp] theorem mapSensors_slot (f : SensorUnit → SensorUnit) (s : State) : (mapSensors f s).slot = s.slot := rfl
@[simp] theorem mapSensors_config (f : SensorUnit → SensorUnit) (s : State) : (mapSensors f s).config = s.config := rfl
@[simp] theorem mapSensors_supply (f : SensorUnit → SensorUnit) (s : State) : (mapSensors f s).supply = s.supply := rfl
@[simp] theorem mapSensors_thermal (f : SensorUnit → SensorUnit) (s : State) : (mapSensors f s).thermal = s.thermal := rfl
@[simp] theorem mapSensors_store (f : SensorUnit → SensorUnit) (s : State) : (mapSensors f s).store = s.store := rfl
@[simp] theorem mapSensors_supervisor (f : SensorUnit → SensorUnit) (s : State) : (mapSensors f s).supervisor = s.supervisor := rfl
@[simp] theorem mapSensors_sensors (f : SensorUnit → SensorUnit) (s : State) : (mapSensors f s).sensors = f s.sensors := rfl
@[simp] theorem mapSensors_drive (f : SensorUnit → SensorUnit) (s : State) : (mapSensors f s).drive = s.drive := rfl
@[simp] theorem mapSensors_directives (f : SensorUnit → SensorUnit) (s : State) : (mapSensors f s).directives = s.directives := rfl
@[simp] theorem mapSensors_capture (f : SensorUnit → SensorUnit) (s : State) : (mapSensors f s).capture = s.capture := rfl
@[simp] theorem mapSensors_governor (f : SensorUnit → SensorUnit) (s : State) : (mapSensors f s).governor = s.governor := rfl
@[simp] theorem mapSensors_port (f : SensorUnit → SensorUnit) (s : State) : (mapSensors f s).port = s.port := rfl
@[simp] theorem mapSensors_pins (f : SensorUnit → SensorUnit) (s : State) : (mapSensors f s).pins = s.pins := rfl
@[simp] theorem mapSensors_xm (f : SensorUnit → SensorUnit) (s : State) : (mapSensors f s).xm = s.xm := rfl
@[simp] theorem mapSensors_pending (f : SensorUnit → SensorUnit) (s : State) : (mapSensors f s).pending = s.pending := rfl

/-! ### mapStore -/

@[simp] theorem mapStore_slot (f : ProfileStore → ProfileStore) (s : State) : (mapStore f s).slot = s.slot := rfl
@[simp] theorem mapStore_config (f : ProfileStore → ProfileStore) (s : State) : (mapStore f s).config = s.config := rfl
@[simp] theorem mapStore_supply (f : ProfileStore → ProfileStore) (s : State) : (mapStore f s).supply = s.supply := rfl
@[simp] theorem mapStore_thermal (f : ProfileStore → ProfileStore) (s : State) : (mapStore f s).thermal = s.thermal := rfl
@[simp] theorem mapStore_store (f : ProfileStore → ProfileStore) (s : State) : (mapStore f s).store = f s.store := rfl
@[simp] theorem mapStore_supervisor (f : ProfileStore → ProfileStore) (s : State) : (mapStore f s).supervisor = s.supervisor := rfl
@[simp] theorem mapStore_sensors (f : ProfileStore → ProfileStore) (s : State) : (mapStore f s).sensors = s.sensors := rfl
@[simp] theorem mapStore_drive (f : ProfileStore → ProfileStore) (s : State) : (mapStore f s).drive = s.drive := rfl
@[simp] theorem mapStore_directives (f : ProfileStore → ProfileStore) (s : State) : (mapStore f s).directives = s.directives := rfl
@[simp] theorem mapStore_capture (f : ProfileStore → ProfileStore) (s : State) : (mapStore f s).capture = s.capture := rfl
@[simp] theorem mapStore_governor (f : ProfileStore → ProfileStore) (s : State) : (mapStore f s).governor = s.governor := rfl
@[simp] theorem mapStore_port (f : ProfileStore → ProfileStore) (s : State) : (mapStore f s).port = s.port := rfl
@[simp] theorem mapStore_pins (f : ProfileStore → ProfileStore) (s : State) : (mapStore f s).pins = s.pins := rfl
@[simp] theorem mapStore_xm (f : ProfileStore → ProfileStore) (s : State) : (mapStore f s).xm = s.xm := rfl
@[simp] theorem mapStore_pending (f : ProfileStore → ProfileStore) (s : State) : (mapStore f s).pending = s.pending := rfl

/-! ### mapCapture -/

@[simp] theorem mapCapture_slot (f : CaptureUnit → CaptureUnit) (s : State) : (mapCapture f s).slot = s.slot := rfl
@[simp] theorem mapCapture_config (f : CaptureUnit → CaptureUnit) (s : State) : (mapCapture f s).config = s.config := rfl
@[simp] theorem mapCapture_supply (f : CaptureUnit → CaptureUnit) (s : State) : (mapCapture f s).supply = s.supply := rfl
@[simp] theorem mapCapture_thermal (f : CaptureUnit → CaptureUnit) (s : State) : (mapCapture f s).thermal = s.thermal := rfl
@[simp] theorem mapCapture_store (f : CaptureUnit → CaptureUnit) (s : State) : (mapCapture f s).store = s.store := rfl
@[simp] theorem mapCapture_supervisor (f : CaptureUnit → CaptureUnit) (s : State) : (mapCapture f s).supervisor = s.supervisor := rfl
@[simp] theorem mapCapture_sensors (f : CaptureUnit → CaptureUnit) (s : State) : (mapCapture f s).sensors = s.sensors := rfl
@[simp] theorem mapCapture_drive (f : CaptureUnit → CaptureUnit) (s : State) : (mapCapture f s).drive = s.drive := rfl
@[simp] theorem mapCapture_directives (f : CaptureUnit → CaptureUnit) (s : State) : (mapCapture f s).directives = s.directives := rfl
@[simp] theorem mapCapture_capture (f : CaptureUnit → CaptureUnit) (s : State) : (mapCapture f s).capture = f s.capture := rfl
@[simp] theorem mapCapture_governor (f : CaptureUnit → CaptureUnit) (s : State) : (mapCapture f s).governor = s.governor := rfl
@[simp] theorem mapCapture_port (f : CaptureUnit → CaptureUnit) (s : State) : (mapCapture f s).port = s.port := rfl
@[simp] theorem mapCapture_pins (f : CaptureUnit → CaptureUnit) (s : State) : (mapCapture f s).pins = s.pins := rfl
@[simp] theorem mapCapture_xm (f : CaptureUnit → CaptureUnit) (s : State) : (mapCapture f s).xm = s.xm := rfl
@[simp] theorem mapCapture_pending (f : CaptureUnit → CaptureUnit) (s : State) : (mapCapture f s).pending = s.pending := rfl

/-! ### withEntries -/

@[simp] theorem withEntries_slot (e : Vector CondEntry 19) (s : State) : (withEntries e s).slot = s.slot := rfl
@[simp] theorem withEntries_config (e : Vector CondEntry 19) (s : State) : (withEntries e s).config = s.config := rfl
@[simp] theorem withEntries_supply (e : Vector CondEntry 19) (s : State) : (withEntries e s).supply = s.supply := rfl
@[simp] theorem withEntries_thermal (e : Vector CondEntry 19) (s : State) : (withEntries e s).thermal = s.thermal := rfl
@[simp] theorem withEntries_store (e : Vector CondEntry 19) (s : State) : (withEntries e s).store = s.store := rfl
@[simp] theorem withEntries_supervisor (e : Vector CondEntry 19) (s : State) : (withEntries e s).supervisor = { s.supervisor with entries := e } := rfl
@[simp] theorem withEntries_sensors (e : Vector CondEntry 19) (s : State) : (withEntries e s).sensors = s.sensors := rfl
@[simp] theorem withEntries_drive (e : Vector CondEntry 19) (s : State) : (withEntries e s).drive = s.drive := rfl
@[simp] theorem withEntries_directives (e : Vector CondEntry 19) (s : State) : (withEntries e s).directives = s.directives := rfl
@[simp] theorem withEntries_capture (e : Vector CondEntry 19) (s : State) : (withEntries e s).capture = s.capture := rfl
@[simp] theorem withEntries_governor (e : Vector CondEntry 19) (s : State) : (withEntries e s).governor = s.governor := rfl
@[simp] theorem withEntries_port (e : Vector CondEntry 19) (s : State) : (withEntries e s).port = s.port := rfl
@[simp] theorem withEntries_pins (e : Vector CondEntry 19) (s : State) : (withEntries e s).pins = s.pins := rfl
@[simp] theorem withEntries_xm (e : Vector CondEntry 19) (s : State) : (withEntries e s).xm = s.xm := rfl
@[simp] theorem withEntries_pending (e : Vector CondEntry 19) (s : State) : (withEntries e s).pending = s.pending := rfl

/-! ### forgetCuts -/

@[simp] theorem forgetCuts_slot (s : State) : (forgetCuts s).slot = { s.slot with justCut := .fill false } := rfl
@[simp] theorem forgetCuts_config (s : State) : (forgetCuts s).config = s.config := rfl
@[simp] theorem forgetCuts_supply (s : State) : (forgetCuts s).supply = s.supply := rfl
@[simp] theorem forgetCuts_thermal (s : State) : (forgetCuts s).thermal = s.thermal := rfl
@[simp] theorem forgetCuts_store (s : State) : (forgetCuts s).store = s.store := rfl
@[simp] theorem forgetCuts_supervisor (s : State) : (forgetCuts s).supervisor = s.supervisor := rfl
@[simp] theorem forgetCuts_sensors (s : State) : (forgetCuts s).sensors = s.sensors := rfl
@[simp] theorem forgetCuts_drive (s : State) : (forgetCuts s).drive = s.drive := rfl
@[simp] theorem forgetCuts_directives (s : State) : (forgetCuts s).directives = s.directives := rfl
@[simp] theorem forgetCuts_capture (s : State) : (forgetCuts s).capture = s.capture := rfl
@[simp] theorem forgetCuts_governor (s : State) : (forgetCuts s).governor = s.governor := rfl
@[simp] theorem forgetCuts_port (s : State) : (forgetCuts s).port = s.port := rfl
@[simp] theorem forgetCuts_pins (s : State) : (forgetCuts s).pins = s.pins := rfl
@[simp] theorem forgetCuts_xm (s : State) : (forgetCuts s).xm = s.xm := rfl
@[simp] theorem forgetCuts_pending (s : State) : (forgetCuts s).pending = s.pending := rfl

/-! ### cutChain -/

@[simp] theorem cutChain_slot (c : Chain) (why : Reason) (s : State) : (cutChain c why s).slot = { s.slot with inForce := s.slot.inForce.set c ⟨.muted, why⟩, prepared := s.slot.prepared.map (cutPrepared c why), justCut := s.slot.justCut.set c (decide (s.governor.state = .running)) } := rfl
@[simp] theorem cutChain_config (c : Chain) (why : Reason) (s : State) : (cutChain c why s).config = s.config := rfl
@[simp] theorem cutChain_supply (c : Chain) (why : Reason) (s : State) : (cutChain c why s).supply = s.supply := rfl
@[simp] theorem cutChain_thermal (c : Chain) (why : Reason) (s : State) : (cutChain c why s).thermal = s.thermal := rfl
@[simp] theorem cutChain_store (c : Chain) (why : Reason) (s : State) : (cutChain c why s).store = s.store := rfl
@[simp] theorem cutChain_supervisor (c : Chain) (why : Reason) (s : State) : (cutChain c why s).supervisor = s.supervisor := rfl
@[simp] theorem cutChain_sensors (c : Chain) (why : Reason) (s : State) : (cutChain c why s).sensors = s.sensors := rfl
@[simp] theorem cutChain_drive (c : Chain) (why : Reason) (s : State) : (cutChain c why s).drive = s.drive := rfl
@[simp] theorem cutChain_directives (c : Chain) (why : Reason) (s : State) : (cutChain c why s).directives = s.directives := rfl
@[simp] theorem cutChain_capture (c : Chain) (why : Reason) (s : State) : (cutChain c why s).capture = s.capture := rfl
@[simp] theorem cutChain_governor (c : Chain) (why : Reason) (s : State) : (cutChain c why s).governor = s.governor := rfl
@[simp] theorem cutChain_port (c : Chain) (why : Reason) (s : State) : (cutChain c why s).port = s.port := rfl
@[simp] theorem cutChain_pins (c : Chain) (why : Reason) (s : State) : (cutChain c why s).pins = s.pins := rfl
@[simp] theorem cutChain_xm (c : Chain) (why : Reason) (s : State) : (cutChain c why s).xm = s.xm := rfl
@[simp] theorem cutChain_pending (c : Chain) (why : Reason) (s : State) : (cutChain c why s).pending = s.pending := rfl

/-! ### formBudget -/

@[simp] theorem formBudget_slot (s : State) : (formBudget s).slot = s.slot := rfl
@[simp] theorem formBudget_config (s : State) : (formBudget s).config = s.config := rfl
@[simp] theorem formBudget_supply (s : State) : (formBudget s).supply = { s.supply with lastBudget := effectiveBudget s } := rfl
@[simp] theorem formBudget_thermal (s : State) : (formBudget s).thermal = s.thermal := rfl
@[simp] theorem formBudget_store (s : State) : (formBudget s).store = s.store := rfl
@[simp] theorem formBudget_supervisor (s : State) : (formBudget s).supervisor = s.supervisor := rfl
@[simp] theorem formBudget_sensors (s : State) : (formBudget s).sensors = s.sensors := rfl
@[simp] theorem formBudget_drive (s : State) : (formBudget s).drive = s.drive := rfl
@[simp] theorem formBudget_directives (s : State) : (formBudget s).directives = s.directives := rfl
@[simp] theorem formBudget_capture (s : State) : (formBudget s).capture = s.capture := rfl
@[simp] theorem formBudget_governor (s : State) : (formBudget s).governor = s.governor := rfl
@[simp] theorem formBudget_port (s : State) : (formBudget s).port = s.port := rfl
@[simp] theorem formBudget_pins (s : State) : (formBudget s).pins = s.pins := rfl
@[simp] theorem formBudget_xm (s : State) : (formBudget s).xm = s.xm := rfl
@[simp] theorem formBudget_pending (s : State) : (formBudget s).pending = s.pending := rfl

/-! ### enqueue -/

@[simp] theorem enqueue_slot (cs : List Instr) (s : State) : (enqueue cs s).slot = s.slot := rfl
@[simp] theorem enqueue_config (cs : List Instr) (s : State) : (enqueue cs s).config = s.config := rfl
@[simp] theorem enqueue_supply (cs : List Instr) (s : State) : (enqueue cs s).supply = s.supply := rfl
@[simp] theorem enqueue_thermal (cs : List Instr) (s : State) : (enqueue cs s).thermal = s.thermal := rfl
@[simp] theorem enqueue_store (cs : List Instr) (s : State) : (enqueue cs s).store = s.store := rfl
@[simp] theorem enqueue_supervisor (cs : List Instr) (s : State) : (enqueue cs s).supervisor = s.supervisor := rfl
@[simp] theorem enqueue_sensors (cs : List Instr) (s : State) : (enqueue cs s).sensors = s.sensors := rfl
@[simp] theorem enqueue_drive (cs : List Instr) (s : State) : (enqueue cs s).drive = s.drive := rfl
@[simp] theorem enqueue_directives (cs : List Instr) (s : State) : (enqueue cs s).directives = s.directives := rfl
@[simp] theorem enqueue_capture (cs : List Instr) (s : State) : (enqueue cs s).capture = s.capture := rfl
@[simp] theorem enqueue_governor (cs : List Instr) (s : State) : (enqueue cs s).governor = s.governor := rfl
@[simp] theorem enqueue_port (cs : List Instr) (s : State) : (enqueue cs s).port = s.port := rfl
@[simp] theorem enqueue_pins (cs : List Instr) (s : State) : (enqueue cs s).pins = s.pins := rfl
@[simp] theorem enqueue_xm (cs : List Instr) (s : State) : (enqueue cs s).xm = s.xm := rfl
@[simp] theorem enqueue_pending (cs : List Instr) (s : State) : (enqueue cs s).pending = s.pending ++ cs := rfl

/-! ### receive -/

@[simp] theorem receive_slot (bytes : Option (List Byte)) (s : State) : (receive bytes s).slot = s.slot := rfl
@[simp] theorem receive_config (bytes : Option (List Byte)) (s : State) : (receive bytes s).config = s.config := rfl
@[simp] theorem receive_supply (bytes : Option (List Byte)) (s : State) : (receive bytes s).supply = s.supply := rfl
@[simp] theorem receive_thermal (bytes : Option (List Byte)) (s : State) : (receive bytes s).thermal = s.thermal := rfl
@[simp] theorem receive_store (bytes : Option (List Byte)) (s : State) : (receive bytes s).store = s.store := rfl
@[simp] theorem receive_supervisor (bytes : Option (List Byte)) (s : State) : (receive bytes s).supervisor = s.supervisor := rfl
@[simp] theorem receive_sensors (bytes : Option (List Byte)) (s : State) : (receive bytes s).sensors = s.sensors := rfl
@[simp] theorem receive_drive (bytes : Option (List Byte)) (s : State) : (receive bytes s).drive = s.drive := rfl
@[simp] theorem receive_directives (bytes : Option (List Byte)) (s : State) : (receive bytes s).directives = s.directives := rfl
@[simp] theorem receive_capture (bytes : Option (List Byte)) (s : State) : (receive bytes s).capture = s.capture := rfl
@[simp] theorem receive_governor (bytes : Option (List Byte)) (s : State) : (receive bytes s).governor = s.governor := rfl
@[simp] theorem receive_port (bytes : Option (List Byte)) (s : State) : (receive bytes s).port = { s.port with incoming := bytes } := rfl
@[simp] theorem receive_pins (bytes : Option (List Byte)) (s : State) : (receive bytes s).pins = s.pins := rfl
@[simp] theorem receive_xm (bytes : Option (List Byte)) (s : State) : (receive bytes s).xm = s.xm := rfl
@[simp] theorem receive_pending (bytes : Option (List Byte)) (s : State) : (receive bytes s).pending = s.pending := rfl

/-! ### endReading -/

@[simp] theorem endReading_slot (s : State) : (endReading s).slot = s.slot := rfl
@[simp] theorem endReading_config (s : State) : (endReading s).config = s.config := rfl
@[simp] theorem endReading_supply (s : State) : (endReading s).supply = s.supply := rfl
@[simp] theorem endReading_thermal (s : State) : (endReading s).thermal = s.thermal := rfl
@[simp] theorem endReading_store (s : State) : (endReading s).store = s.store := rfl
@[simp] theorem endReading_supervisor (s : State) : (endReading s).supervisor = s.supervisor := rfl
@[simp] theorem endReading_sensors (s : State) : (endReading s).sensors = s.sensors := rfl
@[simp] theorem endReading_drive (s : State) : (endReading s).drive = s.drive := rfl
@[simp] theorem endReading_directives (s : State) : (endReading s).directives = s.directives := rfl
@[simp] theorem endReading_capture (s : State) : (endReading s).capture = s.capture := rfl
@[simp] theorem endReading_governor (s : State) : (endReading s).governor = s.governor := rfl
@[simp] theorem endReading_port (s : State) : (endReading s).port = { s.port with reading := none } := rfl
@[simp] theorem endReading_pins (s : State) : (endReading s).pins = s.pins := rfl
@[simp] theorem endReading_xm (s : State) : (endReading s).xm = s.xm := rfl
@[simp] theorem endReading_pending (s : State) : (endReading s).pending = s.pending := rfl

end Machine

end Sys2Proof
end

