-- ==== Sys2Proof/Laws/Frames.lean ====
section
/-! SUPPORT. What each shared operation can touch, once: an operation's result is the state before it with the named
blocks taken from the result. Every other block is then the one before, by `rw` and `rfl`. -/

namespace Sys2Proof.Machine

theorem setCauseIf_frame (b : Bool) (k : Cause) (s : State) :
    setCauseIf b k s = { s with port := (setCauseIf b k s).port } := by
  unfold setCauseIf; split <;> rfl

theorem setCauseIf_ncause (b : Bool) (k : Cause) (s : State) :
    (setCauseIf b k s).port = { s.port with ncause := if b then s.port.ncause ||| k.mask else s.port.ncause } := by
  unfold setCauseIf; split <;> rfl

theorem writeOutcome_frame (o : SlotOutcome) (s : State) :
    writeOutcome o s = { s with
      slot := { s.slot with lastOutcomeMissed := o.status = .missed }
      port := (writeOutcome o s).port
      xm := memStore s.xm (outcomeAddr o.tag) (outcomeBytes o) } := by
  simp only [writeOutcome]
  rw [setCauseIf_frame]
  rfl

theorem putRecords_frame (rs : List CaptureRecord) (s : State) :
    putRecords rs s = { s with capture := { s.capture with w := s.capture.w + BitVec.ofNat 16 rs.length }
                               xm := (putRecords rs s).xm } := by
  induction rs generalizing s with
  | nil => simp [putRecords]
  | cons r rs ih =>
    unfold putRecords
    rw [ih]
    have : s.capture.w + 1 + BitVec.ofNat 16 rs.length = s.capture.w + BitVec.ofNat 16 (r :: rs).length := by
      rw [List.length_cons, BitVec.add_assoc, Nat.add_comm rs.length 1]
      congr 1
      exact (BitVec.ofNat_add 1 rs.length).symm
    simp only [partWrite, this]

theorem testThreshold_frame (rd : Half) (s : State) :
    testThreshold rd s = { s with
      capture := { s.capture with above := decide (s.capture.threshold < ringFill s.capture.w rd) }
      port := (testThreshold rd s).port } := by
  simp only [testThreshold]
  rw [setCauseIf_frame]
  rfl

theorem landBurst_frame (b : List CaptureRecord) (s : State) :
    landBurst b s = { s with capture := (landBurst b s).capture, port := (landBurst b s).port, xm := (landBurst b s).xm } := by
  simp only [landBurst]
  rw [testThreshold_frame]
  simp only [putCaptureMirror, partWrite, mapCapture]
  rw [putRecords_frame]

theorem prepare_frame (atTrip : Bool) (s : State) :
    prepare atTrip s = { s with
      slot := (prepare atTrip s).slot, supply := (prepare atTrip s).supply, drive := (prepare atTrip s).drive } := rfl

theorem activatePrepared_frame (p : Prepared) (s : State) :
    activatePrepared p s = { s with
      slot := (activatePrepared p s).slot
      thermal := (activatePrepared p s).thermal
      drive := (activatePrepared p s).drive
      port := (activatePrepared p s).port
      xm := (activatePrepared p s).xm } := by
  simp only [activatePrepared]
  rw [writeOutcome_frame]
  rfl

theorem activateOrphan_frame (s : State) :
    activateOrphan s = { s with
      slot := (activateOrphan s).slot
      thermal := (activateOrphan s).thermal
      drive := (activateOrphan s).drive
      port := (activateOrphan s).port
      xm := (activateOrphan s).xm } := by
  simp only [activateOrphan]
  rw [writeOutcome_frame]
  rfl

theorem cancelPrepared_frame (stamp : Stamp) (s : State) :
    cancelPrepared stamp s = { s with
      slot := (cancelPrepared stamp s).slot, port := (cancelPrepared stamp s).port, xm := (cancelPrepared stamp s).xm } := by
  unfold cancelPrepared
  split
  · rfl
  · dsimp only
    rw [writeOutcome_frame]

theorem leaveSlots_frame (stamp : Stamp) (s : State) :
    leaveSlots stamp s = { s with
      slot := (leaveSlots stamp s).slot, port := (leaveSlots stamp s).port, xm := (leaveSlots stamp s).xm } := by
  simp only [leaveSlots]
  rw [cancelPrepared_frame]

theorem enterStoppedIfQuiet_frame (s : State) :
    enterStoppedIfQuiet s = { s with
      governor := (enterStoppedIfQuiet s).governor, port := (enterStoppedIfQuiet s).port } := by
  unfold enterStoppedIfQuiet
  split <;> rfl

theorem enterStopping_frame (why : StopReason) (stamp : Stamp) (s : State) :
    enterStopping why stamp s = { s with
      slot := (enterStopping why stamp s).slot
      drive := (enterStopping why stamp s).drive
      capture := (enterStopping why stamp s).capture
      governor := (enterStopping why stamp s).governor
      port := (enterStopping why stamp s).port
      xm := (enterStopping why stamp s).xm } := by
  unfold enterStopping
  rw [leaveSlots_frame]
  rfl

theorem requestStop_frame (why : StopReason) (stamp : Stamp) (s : State) :
    requestStop why stamp s = { s with
      slot := (requestStop why stamp s).slot
      drive := (requestStop why stamp s).drive
      capture := (requestStop why stamp s).capture
      governor := (requestStop why stamp s).governor
      port := (requestStop why stamp s).port
      xm := (requestStop why stamp s).xm } := by
  unfold requestStop
  split
  · rw [enterStoppedIfQuiet_frame, enterStopping_frame]
  · rfl

theorem leaveRunning_frame (s : State) :
    leaveRunning s = { s with
      slot := (leaveRunning s).slot
      drive := (leaveRunning s).drive
      governor := (leaveRunning s).governor
      port := (leaveRunning s).port
      xm := (leaveRunning s).xm } := by
  simp only [leaveRunning]
  rw [leaveSlots_frame]
  rfl

theorem writeRun1_frame (s : State) :
    writeRun1 s = { s with slot := (writeRun1 s).slot, governor := (writeRun1 s).governor } := by
  unfold writeRun1
  split <;> rfl

theorem writeRun0_frame (s : State) :
    writeRun0 s = { s with
      slot := (writeRun0 s).slot
      drive := (writeRun0 s).drive
      governor := (writeRun0 s).governor
      port := (writeRun0 s).port
      xm := (writeRun0 s).xm } := by
  unfold writeRun0
  split
  · rfl
  · rfl
  · rw [leaveRunning_frame]
  · rfl
  · rfl

theorem writeNcause_frame (v : Half) (s : State) :
    writeNcause v s = { s with governor := (writeNcause v s).governor, port := (writeNcause v s).port } := by
  simp only [writeNcause, clearStop]
  split
  · split <;> rfl
  · rfl

theorem transferCompleted_frame (ack : Bool) (s : State) :
    transferCompleted ack s = { s with
      drive := (transferCompleted ack s).drive
      governor := (transferCompleted ack s).governor
      port := (transferCompleted ack s).port } := by
  unfold transferCompleted
  split
  · rfl
  · dsimp only
    split
    · rw [enterStoppedIfQuiet_frame]; rfl
    · rfl

theorem syncCut_frame (s : State) (c : Chain) :
    syncCut s c = { s with slot := (syncCut s c).slot, supervisor := (syncCut s c).supervisor } := by
  simp only [syncCut]
  split <;> rfl

theorem syncCuts_frame (s : State) :
    syncCuts s = { s with
      slot := (syncCuts s).slot, supervisor := (syncCuts s).supervisor, drive := (syncCuts s).drive } := by
  simp only [syncCuts]
  rw [syncCut_frame _ 3, syncCut_frame _ 2, syncCut_frame _ 1, syncCut_frame _ 0]
  rfl

theorem recordLatchIf_frame (b : Bool) (f : FaultRecord) (c : Chain) (s : State) :
    recordLatchIf b f c s = { s with
      supervisor := (recordLatchIf b f c s).supervisor, xm := (recordLatchIf b f c s).xm } := by
  unfold recordLatchIf
  split <;> rfl

theorem recordLatches_frame (before s : State) :
    recordLatches before s = { s with
      supervisor := (recordLatches before s).supervisor, xm := (recordLatches before s).xm } := by
  simp only [recordLatches]
  rw [recordLatchIf_frame _ _ 3, recordLatchIf_frame _ _ 2, recordLatchIf_frame _ _ 1, recordLatchIf_frame _ _ 0]

theorem evaluateTable_frame (s : State) :
    evaluateTable s = { s with
      slot := (evaluateTable s).slot
      supervisor := (evaluateTable s).supervisor
      drive := (evaluateTable s).drive
      port := (evaluateTable s).port
      xm := (evaluateTable s).xm } := by
  unfold evaluateTable
  dsimp only
  have h1 := recordLatches_frame s (withEntries (evaluatedEntries s) (forgetCuts s))
  generalize recordLatches s (withEntries (evaluatedEntries s) (forgetCuts s)) = r at h1 ⊢
  have h2 := syncCuts_frame r
  generalize syncCuts r = q at h2 ⊢
  have h3 := setCauseIf_frame (anyNoticed s.supervisor.entries (evaluatedEntries s)) .cond q
  generalize setCauseIf _ _ q = z at h3 ⊢
  cases z
  cases q
  cases r
  simp only [State.mk.injEq, withEntries, forgetCuts] at h1 h2 h3 ⊢
  simp [h1, h2, h3]

theorem evaluate_frame (s : State) :
    evaluate s = { s with
      slot := (evaluate s).slot
      supervisor := (evaluate s).supervisor
      drive := (evaluate s).drive
      capture := (evaluate s).capture
      governor := (evaluate s).governor
      port := (evaluate s).port
      xm := (evaluate s).xm } := by
  simp only [evaluate]
  split
  · rw [requestStop_frame, evaluateTable_frame]
  · rw [evaluateTable_frame]

theorem replaceEntry_frame (id : Fin 19) (e : CondEntry) (s : State) :
    replaceEntry id e s = { s with
      slot := (replaceEntry id e s).slot
      supervisor := (replaceEntry id e s).supervisor
      drive := (replaceEntry id e s).drive
      port := (replaceEntry id e s).port } := by
  simp only [replaceEntry]
  rw [setCauseIf_frame, syncCuts_frame]
  rfl

theorem releaseLatch_frame (c : Chain) (s : State) :
    releaseLatch c s = { s with
      slot := (releaseLatch c s).slot
      supervisor := (releaseLatch c s).supervisor
      drive := (releaseLatch c s).drive
      port := (releaseLatch c s).port
      xm := (releaseLatch c s).xm } := by
  simp only [releaseLatch]
  rw [replaceEntry_frame]
  rfl

theorem stepWatch_frame (before : Stamp) (s : State) :
    stepWatch before s = { s with
      slot := (stepWatch before s).slot
      drive := (stepWatch before s).drive
      capture := (stepWatch before s).capture
      governor := (stepWatch before s).governor
      port := (stepWatch before s).port
      xm := (stepWatch before s).xm } := by
  unfold stepWatch
  split
  · dsimp only
    split
    · rw [requestStop_frame]
    · rfl
  · rfl

theorem countScan_frame (s : State) :
    countScan s = { s with
      slot := (countScan s).slot, governor := (countScan s).governor, port := (countScan s).port } := by
  unfold countScan
  split
  · dsimp only
    split
    · unfold leaveInit
      dsimp only
      split <;> rfl
    · rfl
  · rfl

theorem scanCompleted_frame (raw : Vector (BitVec 12) 11) (s : State) :
    scanCompleted raw s = { s with
      slot := (scanCompleted raw s).slot
      sensors := (scanCompleted raw s).sensors
      governor := (scanCompleted raw s).governor
      port := (scanCompleted raw s).port } := by
  unfold scanCompleted
  split
  · unfold publishScan; rw [countScan_frame]; rfl
  · split
    · unfold endSettling publishScan; rw [countScan_frame]; rfl
    · rfl
  · rfl
  · rfl

theorem captureStep_frame (atStart : Bool) (s : State) :
    captureStep atStart s = { s with capture := (captureStep atStart s).capture } := by
  simp only [captureStep, countCapture, prepareBurst]
  split
  · split
    · rfl
    · split
      · split <;> rfl
      · rfl
  · rfl

theorem finishLoad_frame (s : State) : finishLoad s = { s with store := (finishLoad s).store } := by
  unfold finishLoad
  split
  · rfl
  · split <;> rfl

theorem applyCalibration_frame (k : Calibration) (s : State) :
    applyCalibration k s = { s with sensors := { s.sensors with
      offset := if k.failing = 0 then k.zero else s.sensors.offset
      gain := if k.failing = 0 then k.gain.toNat else s.sensors.gain } } := by
  unfold applyCalibration
  split <;> rfl

theorem completeEntry_frame (state : Byte) (why : ResultCode) (data : List Byte) (notify : Bool) (s : State) :
    completeEntry state why data notify s = { s with
      directives := ⟨s.directives.cursor + 1, none⟩
      port := (completeEntry state why data notify s).port
      xm := (completeEntry state why data notify s).xm } := by
  simp only [completeEntry]
  rw [setCauseIf_frame]
  rfl

theorem postAtCursor_frame (kind : Byte) (notify : Bool) (a : List Byte) (s : State) :
    postAtCursor kind notify a s = { s with xm := (postAtCursor kind notify a s).xm } := by
  unfold postAtCursor
  split <;> rfl

theorem putEntry_frame (e : BitVec 5) (state : Byte) (why : ResultCode) (data : List Byte) (s : State) :
    putEntry e state why data s = { s with xm := (putEntry e state why data s).xm } := rfl

theorem abortActive_frame (s : State) : abortActive s = { s with xm := (abortActive s).xm } := by
  unfold abortActive
  split <;> rfl

/-- The bytes of an entry that the part writes, and no other. -/
theorem memRead_putEntry_of_outside {e : BitVec 5} {state : Byte} {why : ResultCode} {data : List Byte} {s : State}
    {x : Nat} (h : x < entryAddr e ∨ entryAddr e + 32 ≤ x) :
    memRead (putEntry e state why data s).xm x = memRead s.xm x := by
  have hl : ((data ++ zeros 8).take 8).length = 8 := by simp
  simp only [putEntry, partWrite]
  rw [memRead_memStore_of_outside (by omega), memRead_memStore_of_outside (by simp; omega),
    memRead_memStore_of_outside (by simp; omega)]

theorem readIndex_abortActive (s : State) : readIndex (abortActive s).xm = readIndex s.xm := by
  unfold abortActive
  split
  · have h : entryAddr s.directives.cursor ≥ 0x0800 := by unfold entryAddr; omega
    rw [readIndex, readIndex, memRead16, memRead16, memRead_putEntry_of_outside (by omega),
      memRead_putEntry_of_outside (by omega)]
  · rfl

theorem warmBlocks_frame (s : State) (m : Memory) (h : readIndex m = readIndex s.xm) :
    warmBlocks { s with xm := m } = { warmBlocks s with xm := m } := by
  unfold warmBlocks
  simp only [h]
  rfl

/-- A change of exchange memory after a change of exchange memory alone. -/
theorem xm_frame_comp {f : State → State} (hf : ∀ s, f s = { s with xm := (f s).xm }) {s t : State}
    (ht : t = { s with xm := t.xm }) : f t = { s with xm := (f t).xm } := by
  have h := hf t
  generalize f t = u at h ⊢
  cases u
  cases t
  simp only [State.mk.injEq] at h ht ⊢
  simp [h, ht]

theorem publishBoard_frame (s : State) : publishBoard s = { s with xm := (publishBoard s).xm } := rfl

theorem putFaults_frame (s : State) : putFaults s = { s with xm := (putFaults s).xm } :=
  xm_frame_comp (f := putFault 3) (fun _ => rfl) (xm_frame_comp (f := putFault 2) (fun _ => rfl)
    (xm_frame_comp (f := putFault 1) (fun _ => rfl) (s := s) (t := putFault 0 s) rfl))

theorem putHeader_frame (s : State) : putHeader s = { s with xm := (putHeader s).xm } :=
  xm_frame_comp (f := putCaptureMirror) (fun _ => rfl) (xm_frame_comp (f := putStepMirror) (fun _ => rfl)
    (xm_frame_comp (f := putCursorMirror) (fun _ => rfl) (xm_frame_comp (f := putLastActivated 0) (fun _ => rfl)
      (xm_frame_comp (f := putSlotMirror) (fun _ => rfl) (s := s) (t := partWrite 0 (le16 1) s) rfl))))

theorem clearOutcomes_frame (s : State) : clearOutcomes s = { s with xm := (clearOutcomes s).xm } := rfl

/-- Every block but exchange memory at its warm-reset values. -/
theorem warmReset_frame (s : State) : warmReset s = { warmBlocks s with xm := (warmReset s).xm } := by
  have h1 := abortActive_frame s
  have h2 := warmBlocks_frame s (abortActive s).xm (readIndex_abortActive s)
  rw [← h1] at h2
  unfold warmReset
  generalize warmBlocks (abortActive s) = a at h2 ⊢
  have h3 := clearOutcomes_frame a
  generalize clearOutcomes a = b at h3 ⊢
  have h4 := putHeader_frame b
  generalize putHeader b = c at h4 ⊢
  have h5 := putFaults_frame c
  generalize putFaults c = d at h5 ⊢
  have h6 := publishBoard_frame d
  generalize publishBoard d = e at h6 ⊢
  generalize warmBlocks s = w at h2 ⊢
  cases e
  cases d
  cases c
  cases b
  cases a
  cases w
  simp only [State.mk.injEq] at h2 h3 h4 h5 h6 ⊢
  simp [h2, h3, h4, h5, h6]

end Sys2Proof.Machine
end

