-- ==== Sys2Proof/Laws/Landing.lean ====
section
/-! SUPPORT. Where each operation writes exchange memory: the canonical form is kept, and every byte outside the named
addresses reads as before. -/

namespace Sys2Proof.Machine

/-- A change of exchange memory that keeps the canonical form and lands at the named addresses only. -/
structure Lands (p : Nat → Prop) (m m' : Memory) : Prop where
  wf : m.wf → m'.wf
  kept : ∀ x, ¬p x → memRead m' x = memRead m x

namespace Lands

theorem refl (p : Nat → Prop) (m : Memory) : Lands p m m := ⟨id, fun _ _ => rfl⟩

theorem trans {p : Nat → Prop} {a b c : Memory} (h : Lands p a b) (g : Lands p b c) : Lands p a c :=
  ⟨fun w => g.wf (h.wf w), fun x hx => (g.kept x hx).trans (h.kept x hx)⟩

theorem mono {p q : Nat → Prop} {a b : Memory} (h : Lands p a b) (hp : ∀ x, p x → q x) : Lands q a b :=
  ⟨h.wf, fun x hx => h.kept x fun hpx => hx (hp x hpx)⟩

theorem store {p : Nat → Prop} {m : Memory} {a : Nat} {bs : List Byte} (h : ∀ x, a ≤ x → x < a + bs.length → p x) :
    Lands p m (memStore m a bs) := by
  refine ⟨fun w => memStore_wf w a bs, fun x hx => ?_⟩
  refine memRead_memStore_of_outside ?_
  by_contra hc
  push Not at hc
  exact hx (h x hc.1 hc.2)

end Lands

/-! ### 32-bit fields -/

theorem le32_join (v : Stamp) : ((v.extractLsb' 24 8 ++ v.extractLsb' 16 8 : Half) ++ (v.extractLsb' 8 8 ++ v.extractLsb' 0 8 : Half) : Stamp) = v := by
  ext i hi
  simp only [BitVec.getElem_append, BitVec.getElem_extractLsb']
  repeat' split
  all_goals rw [← BitVec.getLsbD_eq_getElem]; congr 1; try omega

theorem memRead32_memStore_le32 (m : Memory) (a : Nat) (v : Stamp) : memRead32 (memStore m a (le32 v)) a = v := by
  have h : ∀ i, i < 4 → memRead (memStore m a (le32 v)) (a + i) = (le32 v).getD i 0 := fun i hi =>
    memRead_memStore_of_inside (by simpa using hi)
  have h0 := h 0 (by omega)
  rw [Nat.add_zero] at h0
  rw [memRead32, memRead16, memRead16, h0, h 1 (by omega), h 2 (by omega), Nat.add_assoc, h 3 (by omega)]
  exact le32_join v

/-! ### Lengths (R190) -/

@[simp] theorem outcomeChainBytes_length (o : OutcomeChain) : (outcomeChainBytes o).length = 12 := rfl

@[simp] theorem outcomeBytes_length (o : SlotOutcome) : (outcomeBytes o).length = 64 := by
  simp [outcomeBytes]

@[simp] theorem faultBytes_length (f : FaultRecord) : (faultBytes f).length = 64 := by
  simp [faultBytes]

@[simp] theorem captureBytes_length (r : CaptureRecord) : (captureBytes r).length = 8 := rfl

@[simp] theorem readingBytes_length (r : Reading) : (readingBytes r).length = 6 := rfl

@[simp] theorem boardChainBytes_length (s : State) (c : Chain) : (boardChainBytes s c).length = 16 := rfl

@[simp] theorem boardBytes_length (s : State) : (boardBytes s).length = 448 := by
  simp [boardBytes, List.length_flatMap, List.map_const']

/-! ### The part's writes -/

theorem entryAddr_bounds (e : BitVec 5) : 0x0800 ≤ entryAddr e ∧ entryAddr e + 32 ≤ 0x0C00 := by
  unfold entryAddr; omega

theorem writeOutcome_lands (o : SlotOutcome) (s : State) :
    Lands (InRun (outcomeAddr o.tag) 64) s.xm (writeOutcome o s).xm := by
  rw [writeOutcome_frame]
  exact .store fun x h1 h2 => ⟨h1, by simpa using h2⟩

theorem fault_lands (c : Chain) (f : FaultRecord) (m : Memory) :
    Lands (InRun 0x0C00 256) m (memStore m (faultAddr c) (faultBytes f)) :=
  .store fun x h1 h2 => by
    simp only [faultBytes_length, faultAddr] at h1 h2
    exact ⟨by omega, by omega⟩

theorem putFault_lands (c : Chain) (s : State) : Lands (InRun 0x0C00 256) s.xm (putFault c s).xm :=
  fault_lands c _ _

theorem synced_xm (b : Bool) (k : Cause) (s : State) : (setCauseIf b k (syncCuts s)).xm = s.xm := by
  rw [setCauseIf_frame, syncCuts_frame]

theorem replaceEntry_xm (id : Fin 19) (e : CondEntry) (s : State) : (replaceEntry id e s).xm = s.xm :=
  synced_xm _ _ _

theorem recordLatches_lands (before s : State) : Lands (InRun 0x0C00 256) s.xm (recordLatches before s).xm := by
  have h : ∀ b f c (t : State), Lands (InRun 0x0C00 256) t.xm (recordLatchIf b f c t).xm := by
    intro b f c t
    unfold recordLatchIf
    split
    · exact fault_lands c _ t.xm
    · exact .refl _ _
  exact (((h _ _ 0 _).trans (h _ _ 1 _)).trans (h _ _ 2 _)).trans (h _ _ 3 _)

theorem evaluateTable_lands (s : State) : Lands (InRun 0x0C00 256) s.xm (evaluateTable s).xm := by
  have h : ∀ b k (e : Vector CondEntry 19),
      Lands (InRun 0x0C00 256) s.xm (setCauseIf b k (syncCuts (recordLatches s (withEntries e (forgetCuts s))))).xm := by
    intro b k e
    rw [synced_xm]
    have := recordLatches_lands s (withEntries e (forgetCuts s))
    rwa [withEntries_xm, forgetCuts_xm] at this
  exact h _ _ _

theorem releaseLatch_lands (c : Chain) (s : State) : Lands (InRun 0x0C00 256) s.xm (releaseLatch c s).xm := by
  unfold releaseLatch
  rw [replaceEntry_xm]
  exact fault_lands c _ s.xm

theorem putRecords_lands (rs : List CaptureRecord) (s : State) :
    Lands (InRun 0x2000 0x2000) s.xm (putRecords rs s).xm := by
  induction rs generalizing s with
  | nil => exact .refl _ _
  | cons r rs ih =>
    refine .trans ?_ (ih _)
    exact .store fun x h1 h2 => by
      simp only [captureBytes_length, ringAddr] at h1 h2
      exact ⟨by omega, by omega⟩

theorem putCaptureMirror_lands (s : State) : Lands (InRun 0x000C 4) s.xm (putCaptureMirror s).xm :=
  .store fun x h1 h2 => ⟨h1, by simpa using h2⟩

theorem landBurst_lands (b : List CaptureRecord) (s : State) :
    Lands (fun x => InRun 0x000C 4 x ∨ InRun 0x2000 0x2000 x) s.xm (landBurst b s).xm := by
  simp only [landBurst]
  rw [testThreshold_frame]
  exact ((putRecords_lands _ s).mono fun _ h => .inr h).trans
    ((putCaptureMirror_lands (mapCapture _ (putRecords _ s))).mono fun _ h => .inl h)

theorem quietAfterBurst_frame (s : State) :
    quietAfterBurst s = { s with
      capture := (quietAfterBurst s).capture
      governor := (quietAfterBurst s).governor
      port := (quietAfterBurst s).port } := by
  unfold quietAfterBurst
  split
  · rw [enterStoppedIfQuiet_frame]
    rfl
  · rfl

theorem quietAfterBurst_xm (s : State) : (quietAfterBurst s).xm = s.xm := by
  rw [quietAfterBurst_frame]

theorem publishBoard_lands (s : State) : Lands (InRun 0x0040 448) s.xm (publishBoard s).xm :=
  .store fun x h1 h2 => ⟨h1, by simpa using h2⟩

theorem advanceSlot_lands (s : State) : Lands (InRun 0x0002 4) s.xm (advanceSlot s).xm :=
  .trans (b := (putLastActivated s.slot.n s).xm)
    (.store fun x h1 h2 => by simp only [le16_length] at h2; exact ⟨by omega, by omega⟩)
    (.store fun x h1 h2 => by simp only [le16_length] at h2; exact ⟨by omega, by omega⟩)

theorem activatePrepared_lands (p : Prepared) (s : State) :
    Lands (fun x => InRun 0x0002 4 x ∨ InRun (outcomeAddr s.slot.n) 64 x) s.xm (activatePrepared p s).xm :=
  .trans ((writeOutcome_lands (activatedOutcome p s) (chargeAll (bringIntoForce p s))).mono fun _ h => .inr h)
    ((advanceSlot_lands _).mono fun _ h => .inl h)

theorem activateOrphan_lands (s : State) :
    Lands (fun x => InRun 0x0002 4 x ∨ InRun (outcomeAddr s.slot.n) 64 x) s.xm (activateOrphan s).xm :=
  .trans ((writeOutcome_lands (orphanOutcome s) (chargeAll s)).mono fun _ h => .inr h)
    ((advanceSlot_lands _).mono fun _ h => .inl h)

theorem leaveSlots_lands (stamp : Stamp) (s : State) :
    Lands (InRun (outcomeAddr s.slot.n) 64) s.xm (leaveSlots stamp s).xm := by
  simp only [leaveSlots, cancelPrepared]
  split
  · exact .refl _ _
  · exact writeOutcome_lands (cancelledOutcome _ stamp s) s

theorem requestStop_lands (why : StopReason) (stamp : Stamp) (s : State) :
    Lands (InRun (outcomeAddr s.slot.n) 64) s.xm (requestStop why stamp s).xm := by
  unfold requestStop
  split
  · rw [enterStoppedIfQuiet_frame]
    exact leaveSlots_lands stamp (beginStopping why s)
  · exact .refl _ _

theorem putEntry_lands (e : BitVec 5) (state : Byte) (why : ResultCode) (data : List Byte) (s : State) :
    Lands (InRun (entryAddr e) 32) s.xm (putEntry e state why data s).xm :=
  ⟨fun w => memStore_wf (memStore_wf (memStore_wf w _ _) _ _) _ _,
    fun x hx => memRead_putEntry_of_outside (by unfold InRun at hx; omega)⟩

theorem completeEntry_lands (state : Byte) (why : ResultCode) (data : List Byte) (notify : Bool) (s : State) :
    Lands (fun x => InRun (entryAddr s.directives.cursor) 32 x ∨ x = 6) s.xm
      (completeEntry state why data notify s).xm := by
  simp only [completeEntry]
  rw [setCauseIf_frame]
  exact .trans ((putEntry_lands _ state why data s).mono fun _ h => .inl h)
    (.store fun x h1 h2 => by simp only [List.length_singleton] at h2; right; omega)

theorem postAtCursor_lands (kind : Byte) (notify : Bool) (a : List Byte) (s : State) :
    Lands (InRun (entryAddr s.directives.cursor) 32) s.xm (postAtCursor kind notify a s).xm := by
  unfold postAtCursor
  split
  · exact .refl _ _
  · exact .trans
      (.store fun x h1 h2 => by simp only [List.length_cons, List.length_nil] at h2; exact ⟨h1, by omega⟩)
      (.store fun x h1 h2 => by simp at h2; exact ⟨by omega, by omega⟩)

theorem abortActive_lands (s : State) :
    Lands (InRun (entryAddr s.directives.cursor) 32) s.xm (abortActive s).xm := by
  unfold abortActive
  split
  · exact putEntry_lands _ _ _ _ _
  · exact .refl _ _

/-! ### The host's writes (R178) -/

/-- An address a host write can land at. -/
def hostWritable (x : Nat) : Prop :=
  x = 0x003C ∨ x = 0x003D ∨ InRun 0x0200 0x200 x ∨ InRun 0x0800 0x400 x ∨ InRun 0x1000 0x800 x

theorem hostByteLands_writable {m : Memory} {a : Nat} {b : Byte} (h : hostByteLands m a b = true) : hostWritable a := by
  unfold hostByteLands at h
  unfold hostWritable InRun
  split at h
  · omega
  · split at h
    · omega
    · split at h
      · omega
      · simp only [Bool.and_eq_true, decide_eq_true_eq] at h
        omega

theorem hostByte_lands (m : Memory) (a : Nat) (b : Byte) : Lands hostWritable m (hostByte m a b) := by
  unfold hostByte
  split
  · next h =>
    refine .store fun x h1 h2 => ?_
    have : x = a := by simp only [List.length_singleton] at h2; omega
    exact this ▸ hostByteLands_writable h
  · exact .refl _ _

theorem hostWrite_lands (m : Memory) (a : Half) (bs : List Byte) : Lands hostWritable m (hostWrite m a bs) := by
  induction bs generalizing m a with
  | nil => exact .refl _ _
  | cons b bs ih => exact (hostByte_lands m a.toNat b).trans (ih _ _)

/-- One byte after one host byte. -/
theorem memRead_hostByte (m : Memory) (a : Nat) (b : Byte) (x : Nat) :
    memRead (hostByte m a b) x = if x = a ∧ hostByteLands m a b = true then b else memRead m x := by
  unfold hostByte
  split
  · next h =>
    by_cases hx : x = a
    · subst hx
      have := memBytes_memStore m x [b]
      simp [memBytes] at this
      simp [this, h]
    · rw [memRead_memStore_of_outside (by simp; omega)]
      simp [hx]
  · next h => simp [h]

/-- The host cannot make an entry ACTIVE, nor end an ACTIVE one (R150). -/
theorem active_hostByte (m : Memory) (a : Nat) (b : Byte) (e : Nat) (h1 : 0x0800 ≤ e) (h2 : e < 0x0C00)
    (h32 : e % 32 = 0) : memRead (hostByte m a b) e = 2 ↔ memRead m e = 2 := by
  rw [memRead_hostByte]
  split
  · next h =>
    obtain ⟨rfl, hl⟩ := h
    unfold hostByteLands directiveByteLands at hl
    rw [if_neg (by omega), if_neg (by omega), if_pos (by omega)] at hl
    dsimp only at hl
    rw [h32] at hl
    simp at hl
    exact ⟨fun h => absurd hl.2 (h ▸ by decide), fun h => absurd h hl.1⟩
  · rfl

/-- Where a host byte lands does not depend on the host bytes before it. -/
theorem hostByteLands_hostByte (m : Memory) (a : Nat) (b : Byte) (x : Nat) (c : Byte) :
    hostByteLands (hostByte m a b) x c = hostByteLands m x c := by
  unfold hostByteLands directiveByteLands
  by_cases h : 0x0800 ≤ x ∧ x < 0x0C00
  · have := active_hostByte m a b (x - x % 32) (by omega) (by omega) (by omega)
    dsimp only
    by_cases h2 : memRead m (x - x % 32) = 2
    · rw [if_pos (this.2 h2), if_pos h2]
    · rw [if_neg (fun h => h2 (this.1 h)), if_neg h2]
  · simp only [if_neg h]

/-- One byte after the data bytes of a write transaction: the byte that falls there, where it may land. -/
theorem memRead_hostWrite (bs : List Byte) (m : Memory) (a : Half) (hl : bs.length ≤ 65536) (x : Nat) :
    memRead (hostWrite m a bs) x =
      match bs[(BitVec.ofNat 16 x - a).toNat]? with
      | some b => if x < 65536 ∧ hostByteLands m x b = true then b else memRead m x
      | none => memRead m x := by
  have h1' : (1 : BitVec 16).toNat = 1 := rfl
  induction bs generalizing m a with
  | nil => simp [hostWrite]
  | cons b bs ih =>
    simp only [List.length_cons] at hl
    rw [hostWrite, ih _ _ (by omega)]
    have ha := a.isLt
    by_cases hx : x < 65536
    · by_cases hxa : x = a.toNat
      · subst hxa
        have h1 : (BitVec.ofNat 16 a.toNat - a).toNat = 0 := by simp
        have h2 : (BitVec.ofNat 16 a.toNat - (a + 1)).toNat = 65535 := by simp [BitVec.toNat_sub, BitVec.toNat_add]
        have h3 : bs[65535]? = none := by rw [List.getElem?_eq_none]; omega
        rw [h1, h2, h3]
        simp [memRead_hostByte, hx]
      · have h1 : (BitVec.ofNat 16 x - a).toNat = (BitVec.ofNat 16 x - (a + 1)).toNat + 1 := by
          simp [BitVec.toNat_sub, BitVec.toNat_add]; omega
        rw [h1, List.getElem?_cons_succ]
        cases bs[(BitVec.ofNat 16 x - (a + 1)).toNat]? with
        | none => simp [memRead_hostByte, hxa]
        | some c => simp [hostByteLands_hostByte, memRead_hostByte, hxa]
    · have h1 : memRead (hostByte m a.toNat b) x = memRead m x := by
        rw [memRead_hostByte, if_neg (by omega)]
      rw [h1]
      simp only [hx, false_and, if_false]
      split <;> split <;> rfl

/-! ### The warm reset (R183) -/

theorem putFaults_lands (s : State) : Lands (InRun 0x0C00 256) s.xm (putFaults s).xm :=
  (((putFault_lands 0 s).trans (putFault_lands 1 _)).trans (putFault_lands 2 _)).trans (putFault_lands 3 _)

theorem putHeader_lands (s : State) : Lands (InRun 0 16) s.xm (putHeader s).xm := by
  have h : ∀ (t : State) a bs, a + bs.length ≤ 16 → Lands (InRun 0 16) t.xm (partWrite a bs t).xm := by
    intro t a bs hl
    exact .store fun x h1 h2 => ⟨by omega, by omega⟩
  exact ((((h s 0 (le16 1) (by simp)).trans (h _ 2 (le16 s.slot.n) (by simp))).trans (h _ 4 (le16 0) (by simp))).trans
    (h _ 6 [s.directives.cursor.setWidth 8] (by simp))).trans ((h _ 8 (le32 s.thermal.steps) (by simp)).trans
      (h _ 0xC (le16 s.capture.w ++ le16 (u16 s.capture.lost)) (by simp)))

/-- What a warm reset writes: the header, the status board, the outcome calendar, the fault records, and the entry of the
directive it ends. -/
theorem warmReset_lands (s : State) :
    Lands (fun x => InRun 0 16 x ∨ InRun 0x0040 448 x ∨ InRun 0x0400 0x400 x ∨ InRun 0x0C00 256 x ∨
      InRun (entryAddr s.directives.cursor) 32 x) s.xm (warmReset s).xm := by
  have h1 := abortActive_lands s
  unfold warmReset
  have h2 : (warmBlocks (abortActive s)).xm = (abortActive s).xm := rfl
  rw [← h2] at h1
  generalize warmBlocks (abortActive s) = a at h1
  have h3 : Lands (InRun 0x0400 0x400) a.xm (clearOutcomes a).xm :=
    .store fun x h1 h2 => by simp only [zeros_length] at h2; exact ⟨h1, h2⟩
  generalize clearOutcomes a = b at h3
  have h4 := putHeader_lands b
  generalize putHeader b = c at h4
  have h5 := putFaults_lands c
  generalize putFaults c = d at h5
  have h6 := publishBoard_lands d
  refine (((h1.mono ?_).trans (h3.mono ?_)).trans (h4.mono ?_)).trans ((h5.mono ?_).trans (h6.mono ?_)) <;>
    intro x hx <;> simp [hx]

end Sys2Proof.Machine
end

