-- ==== Sys2Proof/Laws/Capture.lean ====
section
/-! SUPPORT. The capture unit: the records of a burst land one after another in the ring. -/

namespace Sys2Proof.Machine

/-- Every record landed moves the write index by one. -/
theorem putRecords_capture (rs : List CaptureRecord) (s : State) :
    (putRecords rs s).capture =
      { s.capture with w := s.capture.w + BitVec.ofNat 16 rs.length } := by
  induction rs generalizing s with
  | nil => simp [putRecords]
  | cons r rs ih =>
    rw [putRecords, ih]
    simp only [partWrite_capture]
    congr 1
    apply BitVec.eq_of_toNat_eq
    simp only [BitVec.toNat_add, BitVec.toNat_ofNat, List.length_cons]
    have : (1 : BitVec 16).toNat = 1 := rfl
    omega

/-- Bytes outside the records landed read as before. -/
theorem putRecords_kept (rs : List CaptureRecord) (s : State) (x : Nat)
    (h : ∀ i, i < rs.length → ¬InRun (0x2000 + 8 * ((s.capture.w + BitVec.ofNat 16 i).toNat % 1024)) 8 x) :
    memRead (putRecords rs s).xm x = memRead s.xm x := by
  induction rs generalizing s with
  | nil => rfl
  | cons r rs ih =>
    rw [putRecords, ih]
    · simp only [partWrite_xm]
      have := h 0 (by simp)
      rw [memRead_memStore_of_outside]
      simp only [captureBytes_length, ringAddr]
      simp [InRun] at this
      omega
    · intro i hi
      have := h (i + 1) (by simp; omega)
      have e : (s.capture.w + BitVec.ofNat 16 (i + 1)).toNat = (s.capture.w + 1 + BitVec.ofNat 16 i).toNat := by
        simp only [BitVec.toNat_add, BitVec.toNat_ofNat]
        have : (1 : BitVec 16).toNat = 1 := rfl
        omega
      rw [e] at this
      exact this

/-- The bytes of each record landed, for a burst no longer than the ring. -/
theorem putRecords_bytes (rs : List CaptureRecord) (s : State) (hl : rs.length ≤ 1024) (i : Nat)
    (hi : i < rs.length) :
    memBytes (putRecords rs s).xm (0x2000 + 8 * ((s.capture.w + BitVec.ofNat 16 i).toNat % 1024)) 8 =
        captureBytes rs[i] := by
  induction rs generalizing s i with
  | nil => simp at hi
  | cons r rs ih =>
    rw [putRecords]
    cases i with
    | zero =>
      have : memBytes
            (putRecords rs (partWrite (ringAddr s.capture.w) (captureBytes r)
              { s with capture := { s.capture with w := s.capture.w + 1 } })).xm
            (0x2000 + 8 * ((s.capture.w + BitVec.ofNat 16 0).toNat % 1024)) 8 =
          memBytes
            (partWrite (ringAddr s.capture.w) (captureBytes r)
              { s with capture := { s.capture with w := s.capture.w + 1 } }).xm
            (0x2000 + 8 * ((s.capture.w + BitVec.ofNat 16 0).toNat % 1024)) 8 := by
        unfold memBytes
        refine List.map_congr_left fun k hk => ?_
        rw [List.mem_range] at hk
        apply putRecords_kept
        intro j hj
        simp only [partWrite_capture, InRun, BitVec.toNat_add, BitVec.toNat_ofNat]
        have : (1 : BitVec 16).toNat = 1 := rfl
        simp at hl
        omega
      rw [this]
      have h2 := memBytes_memStore s.xm (ringAddr s.capture.w) (captureBytes r)
      rw [captureBytes_length] at h2
      simp [ringAddr] at h2 ⊢
      exact h2
    | succ i =>
      have := ih (partWrite (ringAddr s.capture.w) (captureBytes r)
      { s with capture := { s.capture with w := s.capture.w + 1 } }) (by simp at hl; omega) i (by simpa using hi)
      have e : (s.capture.w + BitVec.ofNat 16 (i + 1)).toNat = (s.capture.w + 1 + BitVec.ofNat 16 i).toNat := by
        simp only [BitVec.toNat_add, BitVec.toNat_ofNat]
        have : (1 : BitVec 16).toNat = 1 := rfl
        omega
      rw [e]; exact this

end Sys2Proof.Machine
end

