-- ==== Sys2Proof/Laws/Directive.lean ====
section
/-! SUPPORT. The directive list: what an entry reads after the part or the host has written it, where a scan stops,
    and what
posting one directive at the cursor comes to. -/

namespace Sys2Proof.Machine

/-! ### Entries -/

/-- An entry's state byte after a part-side write of an entry. -/
theorem entryState_putEntry (e f : BitVec 5) (st : Byte) (why : ResultCode) (data : List Byte) (s : State) :
    entryState (putEntry e st why data s).xm f = if f = e then st else entryState s.xm f := by
  split
  · next h =>
    subst h
    simp only [entryState, putEntry, partWrite]
    rw [memRead_memStore_of_outside (by omega), memRead_memStore_of_outside (by simp)]
    exact memRead_memStore_of_inside (i := 0) (by simp)
  · next h =>
    refine memRead_putEntry_of_outside ?_
    have : f.toNat ≠ e.toNat := fun hh => h (BitVec.eq_of_toNat_eq hh)
    unfold entryAddr
    omega

theorem putEntry_why (e : BitVec 5) (st : Byte) (why : ResultCode) (data : List Byte) (s : State) :
    memRead (putEntry e st why data s).xm (entryAddr e + 3) = why.code := by
  simp only [putEntry, partWrite]
  rw [memRead_memStore_of_outside (by omega)]
  exact memRead_memStore_of_inside (i := 0) (by simp)

theorem putEntry_data (e : BitVec 5) (st : Byte) (why : ResultCode) (data : List Byte) (s : State) :
    memBytes (putEntry e st why data s).xm (entryAddr e + 24) 8 = (data ++ zeros 8).take 8 := by
  have h : ((data ++ zeros 8).take 8).length = 8 := by simp
  have := memBytes_memStore (partWrite (entryAddr e + 3) [why.code] (partWrite (entryAddr e) [st] s)).xm
    (entryAddr e + 24) ((data ++ zeros 8).take 8)
  rw [h] at this
  exact this

/-- The part never writes kind, flags or arguments of an entry (R149). -/
theorem putEntry_keeps (e f : BitVec 5) (k : Nat) (h1 : 1 ≤ k) (h2 : k < 24) (h3 : k ≠ 3) (st : Byte) (why : ResultCode)
    (data : List Byte) (s : State) :
    memRead (putEntry e st why data s).xm (entryAddr f + k) = memRead s.xm (entryAddr f + k) := by
  unfold putEntry partWrite entryAddr
  simp only
  rw [memRead_memStore_of_outside, memRead_memStore_of_outside, memRead_memStore_of_outside]
  all_goals simp only [List.length_take, List.length_cons, List.length_nil]
  all_goals omega

/-- The entry just written shows what was written. -/
theorem putEntry_shows (st : Byte) (why : ResultCode) (data : List Byte) (s u : State)
    (h : u.directives.cursor = s.directives.cursor) :
    EntryShows s (putEntry u.directives.cursor st why data u) st why data := by
  rw [h]
  exact ⟨by rw [entryState_putEntry, if_pos rfl], putEntry_why _ _ _ _ _, putEntry_data _ _ _ _ _⟩

/-- A completion writes its entry, clears the active directive, moves the cursor with its mirror and sets DIRECTIVE where
asked. -/
theorem completeEntry_completed (st : Byte) (why : ResultCode) (data : List Byte) (notify : Bool) (s u : State)
    (hc : u.directives.cursor = s.directives.cursor) :
    EntryShows s (completeEntry st why data notify u) st why data ∧
      (completeEntry st why data notify u).directives = ⟨s.directives.cursor + 1, none⟩ ∧
      memRead (completeEntry st why data notify u).xm 6 = (s.directives.cursor + 1).setWidth 8 ∧
      (completeEntry st why data notify u).port.ncause =
        (if notify then u.port.ncause ||| 4 else u.port.ncause) := by
  have hx : (completeEntry st why data notify u).xm =
      memStore (putEntry u.directives.cursor st why data u).xm 6 [(u.directives.cursor + 1).setWidth 8] := by
    simp only [completeEntry]
    rw [setCauseIf_frame]
    rfl
  have he := entryAddr_bounds s.directives.cursor
  have hs := putEntry_shows st why data s u hc
  refine ⟨⟨?_, ?_, ?_⟩, ?_, ?_, ?_⟩
  · rw [entryState, hx, memRead_memStore_of_outside (by simp; omega)]
    exact hs.1
  · rw [hx, memRead_memStore_of_outside (by simp; omega)]
    exact hs.2.1
  · rw [hx, memBytes_memStore_of_outside (.inr (by simp))]
    exact hs.2.2
  · rw [completeEntry_frame, hc]
  · rw [hx, hc]
    exact memRead_memStore_of_inside (i := 0) (by simp)
  · simp only [completeEntry, putCursorMirror, partWrite]
    rw [setCauseIf_ncause]
    rfl

/-- Another entry's state survives a completion. -/
theorem entryState_completeEntry_other {e : BitVec 5} {st : Byte} {why : ResultCode} {data : List Byte} {notify :
    Bool}
    {s : State} (h : e ≠ s.directives.cursor) :
    entryState (completeEntry st why data notify s).xm e = entryState s.xm e := by
  have := entryAddr_bounds e
  refine (completeEntry_lands st why data notify s).kept _ ?_
  have hn : e.toNat ≠ s.directives.cursor.toNat := fun hh => h (BitVec.eq_of_toNat_eq hh)
  unfold InRun entryAddr
  omega

/-! ### The host's post (R150) -/

theorem flagBit_bit0 (b : Bool) : (flagBit b 0).getLsbD 0 = b := by
  cases b <;> decide

/-- What the entry at the cursor reads after a post over an entry that is not ACTIVE: POSTED, with kind, flag and
arguments. -/
theorem postAtCursor_reads (kind : Byte) (notify : Bool) (a : List Byte) (s : State)
    (h : entryState s.xm s.directives.cursor ≠ 2) :
    let t := postAtCursor kind notify a s
    entryState t.xm s.directives.cursor = 1 ∧ entryKind t.xm s.directives.cursor = kind ∧
      entryNotify t.xm s.directives.cursor = notify ∧
      entryArgs t.xm s.directives.cursor = (a ++ zeros 20).take 20 := by
  have hl : ((a ++ zeros 20).take 20).length = 20 := by simp
  have hin : ∀ i, i < 3 → memRead (memStore (memStore s.xm (entryAddr s.directives.cursor) [1, kind,
      flagBit notify 0])
      (entryAddr s.directives.cursor + 4) ((a ++ zeros 20).take 20)) (entryAddr s.directives.cursor + i) =
      [1, kind, flagBit notify 0].getD i 0 := by
    intro i hi
    rw [memRead_memStore_of_outside (by omega)]
    exact memRead_memStore_of_inside (by simpa using hi)
  have ht : (postAtCursor kind notify a s).xm = memStore (memStore s.xm (entryAddr s.directives.cursor)
      [1, kind, flagBit notify 0]) (entryAddr s.directives.cursor + 4) ((a ++ zeros 20).take 20) := by
    unfold postAtCursor
    rw [if_neg h]
    rfl
  dsimp only
  rw [ht]
  refine ⟨hin 0 (by omega), hin 1 (by omega), ?_, ?_⟩
  · rw [entryNotify, hin 2 (by omega)]
    exact flagBit_bit0 notify
  · have := memBytes_memStore (memStore s.xm (entryAddr s.directives.cursor) [1, kind, flagBit notify 0])
      (entryAddr s.directives.cursor + 4) ((a ++ zeros 20).take 20)
    rw [hl] at this
    exact this

/-! ### The scan (R152, R155) -/

/-- A scan stops where a directive is active or the entry at the cursor is not POSTED. -/
theorem scanFrom_stops {s : State} (h : s.directives.active.isSome = true ∨ entryState s.xm s.directives.cursor ≠ 1)
    (fuel : Nat) : scanFrom fuel s = s := by
  cases fuel with
  | zero => rfl
  | succ n =>
    unfold scanFrom
    rw [if_neg]
    rintro ⟨h1, h2⟩
    rcases h with h | h
    · cases ha : s.directives.active <;> simp [ha] at h h1
    · exact h h2

/-- The cursor's successor is another entry. -/
theorem cursor_next_ne (e : BitVec 5) : e + 1 ≠ e := by
  revert e
  decide

/-- A completion after which the next entry is not POSTED ends the scan. -/
theorem scanFrom_completeEntry {st : Byte} {why : ResultCode} {data : List Byte} {notify : Bool} {s : State}
    (h : entryState s.xm (s.directives.cursor + 1) ≠ 1) (fuel : Nat) :
    scanFrom fuel (completeEntry st why data notify s) = completeEntry st why data notify s := by
  refine scanFrom_stops (.inr ?_) fuel
  have hc : (completeEntry st why data notify s).directives.cursor = s.directives.cursor + 1 := by
    rw [completeEntry_frame]
  rw [hc, entryState_completeEntry_other (cursor_next_ne _)]
  exact h

/-- One directive posted at the cursor of a part that is ready for it: what its take answers, brought into the list, and the
scan that goes on. -/
theorem issue_ready {s : State} (h : ReadyForOne s) (kind : Byte) (notify : Bool) (a : List Byte) :
    issue kind notify a s = scanFrom 31 (settle notify
      (takeDirective kind ((a ++ zeros 20).take 20) (postAtCursor kind notify a (endReading s)))) := by
  obtain ⟨hp, hg, ha, h2, _⟩ := h
  have hr := postAtCursor_reads kind notify a (endReading s) h2
  have hd : (postAtCursor kind notify a (endReading s)).directives = s.directives := by
    rw [postAtCursor_frame]
    rfl
  have hgov : (postAtCursor kind notify a (endReading s)).governor = s.governor := by
    rw [postAtCursor_frame]
    rfl
  have hi : issue kind notify a s = nudgeWrite (postAtCursor kind notify a (endReading s)) := by
    unfold issue unlessHeld
    rw [if_neg (by simp [hp])]
  rw [hi]
  have hc : (endReading s).directives.cursor = (postAtCursor kind notify a (endReading s)).directives.cursor := by
    rw [hd]
    rfl
  simp only [hc] at hr
  generalize postAtCursor kind notify a (endReading s) = t at hr hd hgov
  obtain ⟨r1, r2, r3, r4⟩ := hr
  unfold nudgeWrite scan
  rw [if_neg (by rw [hd, ha]; simp), if_neg (by rw [hgov]; exact hg)]
  show scanFrom (31 + 1) t = _
  rw [scanFrom, if_pos ⟨by rw [hd, ha]; rfl, r1⟩, takeAtCursor, r2, r3, r4]

/-- The entry behind the cursor is not POSTED after the post either. -/
theorem postAtCursor_next {s : State} (h : entryState s.xm (s.directives.cursor + 1) ≠ 1) (kind : Byte) (notify :
    Bool)
    (a : List Byte) :
    entryState (postAtCursor kind notify a (endReading s)).xm (s.directives.cursor + 1) ≠ 1 := by
  have : entryState (postAtCursor kind notify a (endReading s)).xm (s.directives.cursor + 1) =
      entryState s.xm (s.directives.cursor + 1) := by
    refine (postAtCursor_lands kind notify a (endReading s)).kept _ ?_
    have hn : (s.directives.cursor + 1).toNat ≠ s.directives.cursor.toNat := fun hh =>
      cursor_next_ne _ (BitVec.eq_of_toNat_eq hh)
    simp only [InRun, entryAddr, endReading_directives]
    omega
  rw [this]
  exact h

/-- A directive that completes DONE at its take. -/
theorem issue_done {s : State} (h : ReadyForOne s) {kind : Byte} {notify : Bool} {a : List Byte} {u : State}
    {data : List Byte}
    (ht : takeDirective kind ((a ++ zeros 20).take 20) (postAtCursor kind notify a (endReading s)) = .done u data)
    (hd : u.directives = s.directives) (hx : entryState u.xm (s.directives.cursor + 1) ≠ 1) :
    issue kind notify a s = completeEntry 3 .ok data notify u := by
  rw [issue_ready h, ht, settle]
  exact scanFrom_completeEntry (by rw [hd]; exact hx) 31

/-- A directive refused at its take. -/
theorem issue_failed {s : State} (h : ReadyForOne s) {kind : Byte} {notify : Bool} {a : List Byte} {u : State}
    {why : ResultCode} {data : List Byte}
    (ht : takeDirective kind ((a ++ zeros 20).take 20) (postAtCursor kind notify a (endReading s)) =
      .failed u why data)
    (hd : u.directives = s.directives) (hx : entryState u.xm (s.directives.cursor + 1) ≠ 1) :
    issue kind notify a s = completeEntry 4 why data notify u := by
  rw [issue_ready h, ht, settle]
  exact scanFrom_completeEntry (by rw [hd]; exact hx) 31

/-- A directive that becomes active at its take. -/
theorem issue_active {s : State} (h : ReadyForOne s) {kind : Byte} {notify : Bool} {a : List Byte} {u : State}
    {k : ActiveKind} {timer : Option Nat}
    (ht : takeDirective kind ((a ++ zeros 20).take 20) (postAtCursor kind notify a (endReading s)) =
      .active u k timer) :
    issue kind notify a s = { putEntry u.directives.cursor 2 .ok [] u with
      directives := { u.directives with active := some ⟨k, timer, notify⟩ } } := by
  rw [issue_ready h, ht, settle]
  exact scanFrom_stops (.inl rfl) 31

/-- What an argument list reads at an offset within it. -/
theorem take20_getD (a : List Byte) (i : Nat) (h : i < 20) : ((a ++ zeros 20).take 20).getD i 0 = a.getD i 0 := by
  rw [List.getD_eq_getElem?_getD, List.getD_eq_getElem?_getD, List.getElem?_take_of_lt h]
  by_cases hi : i < a.length
  · rw [List.getElem?_append_left hi]
  · rw [List.getElem?_append_right (by omega), List.getElem?_eq_none (l := a) (by omega)]
    have := zeros_getD 20 (i - a.length)
    rw [List.getD_eq_getElem?_getD] at this
    exact this

/-! ### Timed directives -/

/-- A timed directive whose answer is in completes at its last step, and the scan that follows ends at once. -/
theorem directiveStep_done {s u : State} {kind : ActiveKind} {notify : Bool} {m : Measurement} {data :
    List Byte} (hc : CompletesNext s kind notify)
    (ha : answerTimed kind (stepMeasurement kind m s) = .done u data) (hd : u.directives = s.directives) (hx : u.xm =
        s.xm)  :
    directiveStep m s = completeEntry 3 .ok data notify u := by
  obtain ⟨_, h1, h2⟩ := hc
  unfold directiveStep
  rw [h1]
  dsimp only
  rw [if_pos (by omega), ha]
  unfold completeActive settle
  dsimp only
  unfold scan
  split
  · rfl
  · exact scanFrom_completeEntry (by rw [hd, hx]; exact h2) 32

/-- A timed directive that fails completes so at its last step. -/
theorem directiveStep_failed {s u : State} {kind : ActiveKind} {notify : Bool} {m : Measurement} {why :
    ResultCode} {data : List Byte} (hc : CompletesNext s kind notify)
    (ha : answerTimed kind (stepMeasurement kind m s) = .failed u why data) (hd : u.directives = s.directives) (hx :
        u.xm = s.xm)  :
    directiveStep m s = completeEntry 4 why data notify u := by
  obtain ⟨_, h1, h2⟩ := hc
  unfold directiveStep
  rw [h1]
  dsimp only
  rw [if_pos (by omega), ha]
  unfold completeActive settle
  dsimp only
  unfold scan
  split
  · rfl
  · exact scanFrom_completeEntry (by rw [hd, hx]; exact h2) 32

/-- What the completion of the active directive comes to, whatever its answer did
outside the directives, the port and the exchange memory. -/
theorem completeEntry_whole (st : Byte) (why : ResultCode) (data : List Byte) (notify : Bool) (s u : State)
    (hd : u.directives = s.directives) (hx : u.xm = s.xm) (hp : u.port = s.port) :
    CompletedOver s.port.ncause s (completeEntry st why data notify u) notify st why data ∧
    MemoryKept (EntryOrMirror s) s (completeEntry st why data notify u) ∧
    completeEntry st why data notify u = { u with
      directives := (completeEntry st why data notify u).directives
      port := (completeEntry st why data notify u).port
      xm := (completeEntry st why data notify u).xm } := by
  have := completeEntry_completed st why data notify s u (by rw [hd])
  refine ⟨⟨this.1, this.2.1, this.2.2.1, ?_⟩, ?_, ?_⟩
  · have h4 := this.2.2.2
    rw [hp] at h4
    have h5 : (completeEntry st why data notify u).port = { s.port with ncause :=
        (completeEntry st why data notify u).port.ncause } := by
      rw [← hp]; unfold completeEntry setCauseIf; cases notify <;> rfl
    rw [h5, h4]
  · have hl := (completeEntry_lands st why data notify u).kept
    intro x hx2
    rw [← hx]
    apply hl
    rw [hd]
    exact hx2
  · have h : (completeEntry st why data notify u).directives =
        { cursor := u.directives.cursor + 1, active := none } := by rw [completeEntry_frame]
    rw [h]
    exact completeEntry_frame st why data notify u

end Sys2Proof.Machine
end

