-- ==== Sys2Proof/Laws/Drive.lean ====
section
/-! SUPPORT. What the Drive Port's shared operations can do: the arbiter and a transfer's completion leave cut flags and MUTE
lines alone, and no transfer is left behind by a completion in STOPPING. -/

namespace Sys2Proof.Machine

/-- A rewrite of the drive records that keeps the cut flags keeps every reason of R144. -/
theorem muteReason_mapDrive (s : State) (f : Chain → DriveRecord → DriveRecord)
    (hf : ∀ c r, (f c r).cut = r.cut) (c : Chain) : muteReason (mapDrive f s) c = muteReason s c := by
  simp only [muteReason, preparedMuted, mapDrive_governor, mapDrive_supervisor, mapDrive_drive, PerChain.get_mapIdx, hf, mapDrive_slot]
  rfl

/-- The arbiter leaves cut flags and lines alone. -/
theorem serveWaiting_lines (cs : List Chain) (d : DrivePort) (c : Chain) :
    ((serveWaiting cs d).chains.get c).cut = (d.chains.get c).cut ∧
    ((serveWaiting cs d).chains.get c).mute = (d.chains.get c).mute := by
  induction cs generalizing d with
  | nil => exact ⟨rfl, rfl⟩
  | cons e cs ih =>
    unfold serveWaiting
    dsimp only
    split
    · exact ih d
    · split
      · rw [(ih _).1, (ih _).2]
        simp only [PerChain.get_set]
        split
        · next h => subst h; exact ⟨rfl, rfl⟩
        · exact ⟨rfl, rfl⟩
      · simp only [PerChain.get_set]
        split
        · next h => subst h; exact ⟨rfl, rfl⟩
        · exact ⟨rfl, rfl⟩

theorem arbitrate_lines (d : DrivePort) (c : Chain) :
    ((arbitrate d).chains.get c).cut = (d.chains.get c).cut ∧ ((arbitrate d).chains.get c).mute = (d.chains.get c).mute := by
  unfold arbitrate
  split
  · exact ⟨rfl, rfl⟩
  · exact serveWaiting_lines _ d c

/-- A transfer's completion leaves cut flags and lines alone. -/
theorem completeTransfer_lines (ack stopping : Bool) (d : DrivePort) (c : Chain) :
    ((completeTransfer ack stopping d).chains.get c).cut = (d.chains.get c).cut ∧
    ((completeTransfer ack stopping d).chains.get c).mute = (d.chains.get c).mute := by
  unfold completeTransfer
  split
  · exact ⟨rfl, rfl⟩
  · dsimp only
    split
    · exact ⟨rfl, rfl⟩
    · have key : ∀ (r' : DriveRecord) (e : Chain), r'.cut = (d.chains.get e).cut → r'.mute = (d.chains.get e).mute →
          (((d.chains.set e r').get c).cut = (d.chains.get c).cut ∧ ((d.chains.set e r').get c).mute = (d.chains.get c).mute) := by
        intro r' e h1 h2
        rw [PerChain.get_set]
        split
        · next h => subst h; exact ⟨h1, h2⟩
        · exact ⟨rfl, rfl⟩
      split
      · apply key <;> split <;> rfl
      · rw [(arbitrate_lines _ c).1, (arbitrate_lines _ c).2]
        apply key <;> split <;> rfl

/-- In STOPPING a completion leaves the link idle (R147). -/
theorem completeTransfer_stopping (ack : Bool) (d : DrivePort) : (completeTransfer ack true d).transfer = none := by
  unfold completeTransfer
  split
  · assumption
  · dsimp only
    simp

end Sys2Proof.Machine
end

