-- ==== Sys2Proof/Laws/Governor.lean ====
section
/-! SUPPORT. What the governor's shared operations do: the entry to STOPPING with every block's entry work, the third quiet
indication, the cancellation of a pending slot. -/

namespace Sys2Proof.Machine

theorem enterStopping_governor (why : StopReason) (stamp : Stamp) (s : State) :
    (enterStopping why stamp s).governor =
      { s.governor with
        state := .stopping
        run := false
        reason := why
        quietSlot := true
        quietDrive := s.drive.transfer.isNone
        quietCapture := s.capture.burst.isNone } := by
  unfold enterStopping
  rw [leaveSlots_frame]
  rfl

theorem enterStopping_transfer (why : StopReason) (stamp : Stamp) (s : State) :
    (enterStopping why stamp s).drive.transfer = s.drive.transfer := by
  unfold enterStopping
  rw [leaveSlots_frame]
  rfl

theorem enterStopping_capture (why : StopReason) (stamp : Stamp) (s : State) :
    (enterStopping why stamp s).capture = { s.capture with on := s.capture.on && s.capture.burst.isSome } := by
  unfold enterStopping
  rw [leaveSlots_frame]
  rfl

/-- Leaving RUNNING ends the pending slot and mutes every chain in force. -/
theorem leaveSlots_slot (stamp : Stamp) (s : State) :
    (leaveSlots stamp s).slot.prepared = none ∧ (leaveSlots stamp s).slot.inForce = .fill mutedByGovernor ∧
      (leaveSlots stamp s).slot.n = s.slot.n := by
  have h : (cancelPrepared stamp s).slot.prepared = none ∧ (cancelPrepared stamp s).slot.n = s.slot.n := by
    unfold cancelPrepared
    split
    · next h => exact ⟨h, rfl⟩
    · refine ⟨rfl, ?_⟩
      dsimp only
      rw [writeOutcome_frame]
  exact ⟨h.1, rfl, h.2⟩

theorem enterStopping_slot (why : StopReason) (stamp : Stamp) (s : State) :
    (enterStopping why stamp s).slot.prepared = none ∧
      (enterStopping why stamp s).slot.inForce = .fill mutedByGovernor ∧
      (enterStopping why stamp s).slot.n = s.slot.n :=
  leaveSlots_slot stamp (beginStopping why s)

/-- The one event of entering STOPPED: in STOPPING with all three indications raised. -/
theorem enterStoppedIfQuiet_cases (s : State) :
    (s.governor.state = .stopping ∧ allQuiet s.governor = true ∧
      enterStoppedIfQuiet s = setCause .stopped (mapGovernor (fun g => { g with state := .stopped }) s)) ∨
    (¬(s.governor.state = .stopping ∧ allQuiet s.governor = true) ∧ enterStoppedIfQuiet s = s) := by
  unfold enterStoppedIfQuiet
  split
  · next h => exact .inl ⟨h.1, h.2, rfl⟩
  · next h => exact .inr ⟨h, rfl⟩

/-- The governor state after a stop request: dropped in INIT, STOPPING and STOPPED, otherwise STOPPING, or STOPPED at once
where nothing is in flight. -/
theorem requestStop_state (why : StopReason) (stamp : Stamp) (s : State) :
    (requestStop why stamp s).governor.state =
      if s.governor.state = .idle ∨ s.governor.state = .running then
        if s.drive.transfer.isNone = true ∧ s.capture.burst.isNone = true then .stopped else .stopping
      else s.governor.state := by
  unfold requestStop
  split
  · rcases enterStoppedIfQuiet_cases (enterStopping why stamp s) with ⟨_, h2, h3⟩ | ⟨h2, h3⟩
    · rw [h3, enterStopping_governor] at *
      simp only [allQuiet, Bool.and_eq_true, true_and] at h2
      rw [if_pos h2]
      rfl
    · rw [h3, enterStopping_governor] at *
      simp only [allQuiet, Bool.and_eq_true, true_and] at h2
      rw [if_neg h2]
  · rfl

/-! ### The cause STOPPED -/

/-- A cause other than STOPPED leaves the bit of STOPPED. -/
theorem mask_other (k : Cause) (hk : k ≠ .stopped) (x : BitVec 6) : (x ||| k.mask) &&& 32 = x &&& 32 := by
  revert x
  cases k <;> first | exact absurd rfl hk | decide

theorem setCauseIf_stopped (b : Bool) (k : Cause) (hk : k ≠ .stopped) (s : State) :
    (setCauseIf b k s).port.ncause &&& 32 = s.port.ncause &&& 32 := by
  unfold setCauseIf
  split
  · exact mask_other k hk _
  · rfl

theorem writeOutcome_stopped (o : SlotOutcome) (s : State) :
    (writeOutcome o s).port.ncause &&& 32 = s.port.ncause &&& 32 :=
  setCauseIf_stopped _ .miss (by decide) s

theorem leaveSlots_stopped (stamp : Stamp) (s : State) :
    (leaveSlots stamp s).port.ncause &&& 32 = s.port.ncause &&& 32 := by
  simp only [leaveSlots, cancelPrepared]
  split
  · rfl
  · exact writeOutcome_stopped _ _

/-! ### Fields that the stop and the scan count leave -/

theorem requestStop_n (why : StopReason) (stamp : Stamp) (s : State) :
    (requestStop why stamp s).slot.n = s.slot.n := by
  unfold requestStop
  split
  · rw [enterStoppedIfQuiet_frame]
    exact (enterStopping_slot why stamp s).2.2
  · rfl

/-- A stop touches capture only by turning it off. -/
theorem requestStop_capture (why : StopReason) (stamp : Stamp) (s : State) :
    (requestStop why stamp s).capture = { s.capture with on := (requestStop why stamp s).capture.on } := by
  unfold requestStop
  split
  · rw [enterStoppedIfQuiet_frame, enterStopping_capture]
  · rfl

end Sys2Proof.Machine
end

