-- ==== Sys2Proof/Laws/Grant.lean ====
section
/-! SUPPORT. What the Supply Allocator and the Grant Computer can answer: the budget is kept (R51 to R57), every grant is the
candidate or an offer below it, every power lies in its range (R31, R36, R37, R40 to R43). -/

namespace Sys2Proof.Machine

theorem usedBy_append (a b : List Granted) : usedBy (a ++ b) = usedBy a + usedBy b := by
  induction a with
  | nil => simp [usedBy]
  | cons g gs ih =>
    obtain ⟨k, o⟩ := g
    cases o <;> simp [usedBy, ih, Nat.add_assoc]

theorem usedBy_muteAll (ks : List Candidate) : usedBy (muteAll ks) = 0 := by
  induction ks with
  | nil => rfl
  | cons k ks ih => simpa [muteAll, usedBy] using ih

theorem usedBy_grantAll (p : Candidate → Int) (ks : List Candidate) : usedBy (grantAll p ks) = sumAt p ks := by
  induction ks with
  | nil => rfl
  | cons k ks ih => simpa [grantAll, usedBy, sumAt] using ih

theorem searchBackoff_fits {rem : Nat} {ks : List Candidate} {b : Int} (h : searchBackoff rem ks = some b) :
    sumAt (offered b) ks ≤ rem ∧ 2 ≤ b := by
  unfold searchBackoff at h
  have h1 := List.find?_some h
  have h2 := List.mem_of_find?_eq_some h
  simp only [decide_eq_true_eq] at h1
  refine ⟨h1, ?_⟩
  simp only [List.mem_map] at h2
  obtain ⟨i, _, rfl⟩ := h2
  omega

/-- What a grant may be: the candidate's own power, or an offer below it. -/
def Grantable (g : Granted) : Prop :=
  ∀ p, g.2 = some p → p = g.1.power ∨ ∃ b, 2 ≤ b ∧ p = offered b g.1

/-- Serving the failing class: the remainder is kept, every candidate is answered once, every grant is an offer. -/
theorem serveFailing_spec (rem : Nat) (ks : List Candidate) :
    usedBy (serveFailing rem ks) ≤ rem ∧ (serveFailing rem ks).map Prod.fst = ks ∧ ∀ g ∈ serveFailing rem ks, Grantable g := by
  induction ks with
  | nil => exact ⟨Nat.zero_le _, rfl, nofun⟩
  | cons k ks ih =>
    have hg : ∀ (p : Candidate → Int) (l : List Candidate), (grantAll p l).map Prod.fst = l := by
      intro p l; simp [grantAll, Function.comp_def]
    unfold serveFailing
    split
    · next h =>
      refine ⟨by rw [usedBy_grantAll]; exact h, hg _ _, ?_⟩
      intro g hm
      simp only [grantAll, List.mem_map] at hm
      obtain ⟨k', _, rfl⟩ := hm
      intro p hp
      exact .inl (Option.some.inj hp).symm
    · split
      · next b h =>
        have h' := searchBackoff_fits h
        refine ⟨by rw [usedBy_grantAll]; exact h'.1, hg _ _, ?_⟩
        intro g hm
        simp only [grantAll, List.mem_map] at hm
        obtain ⟨k', _, rfl⟩ := hm
        intro p hp
        exact .inr ⟨b, h'.2, (Option.some.inj hp).symm⟩
      · refine ⟨ih.1, by simp [ih.2.1], ?_⟩
        intro g hm
        rcases List.mem_cons.1 hm with rfl | hm
        · exact nofun
        · exact ih.2.2 g hm

theorem grantAll_power (ks : List Candidate) : ∀ g ∈ grantAll Candidate.power ks, Grantable g := by
  intro g hm
  simp only [grantAll, List.mem_map] at hm
  obtain ⟨k', _, rfl⟩ := hm
  intro p hp
  exact .inl (Option.some.inj hp).symm

theorem fst_grantAll (p : Candidate → Int) (l : List Candidate) : (grantAll p l).map Prod.fst = l := by
  simp [grantAll, Function.comp_def]

theorem fst_muteAll (l : List Candidate) : (muteAll l).map Prod.fst = l := by
  simp [muteAll, Function.comp_def]

/-- The candidates of class q and those above it are the candidates from q on. -/
theorem filter_le_split (ks : List Candidate) (q : Nat) :
    ((ks.filter fun k => decide (k.priority = q)) ++ ks.filter fun k => decide (q < k.priority)).Perm
      (ks.filter fun k => decide (q ≤ k.priority)) := by
  induction ks with
  | nil => exact .refl _
  | cons k ks ih =>
    simp only [List.filter_cons]
    rcases Nat.lt_trichotomy k.priority q with h | h | h
    · rw [if_neg (by simp; omega), if_neg (by simp; omega), if_neg (by simp; omega)]
      exact ih
    · rw [if_pos (by simp; omega), if_neg (by simp; omega), if_pos (by simp; omega)]
      exact ih.cons k
    · rw [if_neg (by simp; omega), if_pos (by simp; omega), if_pos (by simp; omega)]
      exact (List.perm_middle).trans (ih.cons k)

/-- Serving the classes q, q + 1, ... : the remainder is kept, no candidate is served twice, every grant is an offer. -/
theorem serveClasses_spec (ks : List Candidate) (n q rem : Nat) :
    usedBy (serveClasses ks (List.range' q n) rem) ≤ rem ∧
    ((serveClasses ks (List.range' q n) rem).map Prod.fst).Subperm (ks.filter fun k => decide (q ≤ k.priority)) ∧
    ∀ g ∈ serveClasses ks (List.range' q n) rem, Grantable g := by
  induction n generalizing q rem with
  | zero =>
    exact ⟨Nat.zero_le _, List.nil_subperm, nofun⟩
  | succ n ih =>
    have hf := serveFailing_spec rem (ks.filter fun k => decide (k.priority = q)).reverse
    rw [List.range'_succ]
    unfold serveClasses
    dsimp only
    split
    · next h =>
      have := ih (q + 1) (rem - sumAt Candidate.power (ks.filter fun k => decide (k.priority = q))) 
      refine ⟨?_, ?_, ?_⟩
      · rw [usedBy_append, usedBy_grantAll]; omega
      · rw [List.map_append, fst_grantAll]
        refine (((List.subperm_append_left _).2 this.2.1).trans ?_)
        have e : (fun k : Candidate => decide (q + 1 ≤ k.priority)) = fun k => decide (q < k.priority) := rfl
        rw [e]
        exact (filter_le_split ks q).subperm
      · intro g hm
        rcases List.mem_append.1 hm with hm | hm
        · exact grantAll_power _ g hm
        · exact this.2.2 g hm
    · refine ⟨?_, ?_, ?_⟩
      · rw [usedBy_append, usedBy_muteAll]; exact hf.1
      · rw [List.map_append, fst_muteAll, hf.2.1]
        exact ((List.Perm.append_right _ (List.reverse_perm _)).trans (filter_le_split ks q)).subperm
      · intro g hm
        rcases List.mem_append.1 hm with hm | hm
        · exact hf.2.2 g hm
        · simp only [muteAll, List.mem_map] at hm
          obtain ⟨k', _, rfl⟩ := hm
          exact nofun

/-- Whatever the budget and the candidates: the budget is kept, no candidate is served twice, every grant is an offer. -/
theorem allocate_spec (budget : Nat) (ks : List Candidate) :
    usedBy (allocate budget ks) ≤ budget ∧ ((allocate budget ks).map Prod.fst).Subperm ks ∧ ∀ g ∈ allocate budget ks, Grantable g := by
  unfold allocate
  split
  · next h => exact ⟨by rw [usedBy_grantAll]; exact h, by rw [fst_grantAll], grantAll_power ks⟩
  · have := serveClasses_spec ks 4 0 budget
    have e : ks.filter (fun k => decide (0 ≤ k.priority)) = ks := by simp
    rw [e] at this
    exact this

/-- The current of what a chain is granted. -/
def currentOf (gs : List Granted) (c : Chain) : Nat :=
  match gs.find? fun g => decide (g.1.chain = c) with
  | some (k, some g) => currentAt k g
  | _ => 0

theorem currentOf_cons (g : Granted) (gs : List Granted) (c : Chain) :
    currentOf (g :: gs) c = if g.1.chain = c then (match g with | (k, some p) => currentAt k p | (_, none) => 0) else currentOf gs c := by
  obtain ⟨k, o⟩ := g
  unfold currentOf
  by_cases h : k.chain = c
  · rw [if_pos h, List.find?_cons_of_pos (by simpa using h)]
    cases o <;> rfl
  · rw [if_neg h, List.find?_cons_of_neg (by simpa using h)]

theorem currentOf_absent {gs : List Granted} {c : Chain} (h : c ∉ gs.map fun g => g.1.chain) : currentOf gs c = 0 := by
  unfold currentOf
  have : gs.find? (fun g => decide (g.1.chain = c)) = none := by
    rw [List.find?_eq_none]
    intro g hg
    have : g.1.chain ≠ c := fun e => h (List.mem_map.2 ⟨g, hg, e⟩)
    simpa using this
  rw [this]

/-- The budget used, chain by chain. -/
theorem usedBy_sum (gs : List Granted) (h : (gs.map fun g => g.1.chain).Nodup) :
    usedBy gs = currentOf gs 0 + currentOf gs 1 + currentOf gs 2 + currentOf gs 3 := by
  induction gs with
  | nil => rfl
  | cons g gs ih =>
    rw [List.map_cons, List.nodup_cons] at h
    have ih := ih h.2
    have ha := currentOf_absent h.1
    simp only [currentOf_cons]
    obtain ⟨k, o⟩ := g
    have hc : k.chain = 0 ∨ k.chain = 1 ∨ k.chain = 2 ∨ k.chain = 3 := by generalize k.chain = c; revert c; decide
    dsimp only at ha
    rcases hc with e | e | e | e <;> rw [e] at ha ⊢ <;> cases o <;> simp [usedBy, ih] <;> omega

/-- A candidate is its own chain's, at its own request's class, from stages 2 to 5 on an image. -/
theorem screen_candidate {s : State} {c : Chain} {q : ChainRequest} {k : Candidate} (h : screen s c q = .candidate k) :
    k.chain = c ∧ k.priority = q.priority ∧ ∃ image, screenActive s c q image = .candidate k := by
  unfold screen at h
  split at h
  · cases h
  · split at h
    · cases h
    · split at h
      · cases h
      · next image _ =>
        refine ⟨?_, ?_, image, h⟩ <;>
        · unfold screenActive at h
          dsimp only at h
          split at h
          · cases h
          · cases h; rfl


theorem screenActive_candidate {s : State} {c : Chain} {q : ChainRequest} {image : ProfileImage} {k : Candidate}
    (h : screenActive s c q image = .candidate k) :
    k.clamped = clamp q.power (-200) 112 ∧ k.cth = chainCeiling s c image ∧ k.power = candidatePower s c k.clamped k.cth ∧
      k.clamped - k.power ≤ 127 := by
  unfold screenActive at h
  dsimp only at h
  split at h
  · cases h
  · injection h with h
    subst h
    exact ⟨rfl, rfl, rfl, by dsimp only; omega⟩

theorem screen_decided {s : State} {c : Chain} {q : ChainRequest} {v : Verdict} {why : Reason} {cth : Option Int}
    (h : screen s c q = .decided v why cth) : ∀ r, v ≠ .on r := by
  unfold screen at h
  split at h
  · injection h with h; subst h; nofun
  · split at h
    · injection h with h; subst h; nofun
    · split at h
      · injection h with h; subst h; nofun
      · unfold screenActive at h
        dsimp only at h
        split at h
        · injection h with h; subst h; nofun
        · cases h

theorem largestFit_range {d : Vector Nat 25} {dmax n : Nat} {p : Int} (h : largestFit d dmax n = some p) : -80 ≤ p ∧ p ≤ n - 80 := by
  induction n with
  | zero =>
    unfold largestFit at h
    split at h
    · cases h; omega
    · cases h
  | succ n ih =>
    unfold largestFit at h
    split at h
    · cases h; omega
    · have := ih h; omega

theorem chainCeiling_range {s : State} {c : Chain} {image : ProfileImage}
    (hf : -80 ≤ (s.config.get c).floor ∧ (s.config.get c).floor ≤ 120) :
    -80 ≤ chainCeiling s c image ∧ chainCeiling s c image ≤ 120 := by
  unfold chainCeiling flooredCeiling
  dsimp only
  split
  · exact hf
  · next p h =>
    unfold thermalCeiling at h
    split at h
    · cases h; omega
    · have := largestFit_range h
      omega

/-- The ranges of the floors (R26) and of the caps (R93). -/
def DecisionInputs (s : State) : Prop :=
  (∀ c, -80 ≤ (s.config.get c).floor ∧ (s.config.get c).floor ≤ 120) ∧
  (∀ id : Fin 19, capsPower id = true → -200 ≤ s.supervisor.entries[id].cap ∧ s.supervisor.entries[id].cap ≤ 120)

theorem underCap_range {s : State} (h : DecisionInputs s) {id : Fin 19} (hi : capsPower id = true) {p : Int} (hp : -200 ≤ p) :
    -200 ≤ underCap s id p ∧ underCap s id p ≤ p := by
  have := h.2 id hi
  unfold underCap
  split <;> omega

theorem candidatePower_range {s : State} (h : DecisionInputs s) {c : Chain} {clamped cth : Int} (h1 : -200 ≤ clamped) (h2 : -200 ≤ cth) :
    -200 ≤ candidatePower s c clamped cth ∧ candidatePower s c clamped cth ≤ clamped ∧ candidatePower s c clamped cth ≤ cth := by
  have c1 : capsPower (chainEntry c 1) = true := by revert c; decide
  have c3 : capsPower (chainEntry c 3) = true := by revert c; decide
  have c16 : capsPower 16 = true := by decide
  unfold candidatePower
  have a1 := underCap_range h c1 (p := min clamped cth) (by omega)
  have a2 := underCap_range h c3 (p := _) a1.1
  have a3 := underCap_range h c16 (p := _) a2.1
  omega

theorem clamp_bounds (x lo hi : Int) (h : lo ≤ hi) : lo ≤ clamp x lo hi ∧ clamp x lo hi ≤ hi := by
  unfold clamp; split
  · omega
  · split <;> omega

theorem grantOf_current (gs : List Granted) (c : Chain) : grantOf gs c = none → currentOf gs c = 0 := by
  unfold grantOf currentOf
  cases h : gs.find? fun g => decide (g.1.chain = c) with
  | none => intro _; rfl
  | some g =>
    obtain ⟨k, o⟩ := g
    intro ho
    have ho : o = none := ho
    subst ho; rfl

theorem grantOf_some {gs : List Granted} {c : Chain} {p : Int} (h : grantOf gs c = some p) :
    ∃ k, (k, some p) ∈ gs ∧ k.chain = c ∧ currentOf gs c = currentAt k p := by
  unfold grantOf at h
  unfold currentOf
  cases hf : gs.find? fun g => decide (g.1.chain = c) with
  | none => rw [hf] at h; cases h
  | some g =>
    rw [hf] at h
    obtain ⟨k, o⟩ := g
    have h : o = some p := h
    subst h
    exact ⟨k, List.mem_of_find?_eq_some hf, by simpa using List.find?_some hf, rfl⟩

/-- What stages 1 to 8 answer: a budget used that is the sum of the currents granted and within the budget, and every chain
ON bounded. -/
theorem computeGrants_spec {s : State} (h : DecisionInputs s) (budget : Nat) (qs : PerChain ChainRequest) :
    let r := computeGrants s budget qs
    r.used ≤ budget ∧
      r.used = (r.chains.get 0).verdict.current + (r.chains.get 1).verdict.current + (r.chains.get 2).verdict.current + (r.chains.get 3).verdict.current ∧
      ∀ c r', (r.chains.get c).verdict = .on r' → r'.Bounded := by
  have hs : ∀ c, (screenAll s qs).get c = screen s c (qs.get c) := by intro c; simp [screenAll]
  have hl : (screenAll s qs).toList = [screen s 0 (qs.get 0), screen s 1 (qs.get 1), screen s 2 (qs.get 2), screen s 3 (qs.get 3)] := rfl
  have hmem : ∀ k ∈ (screenAll s qs).toList.filterMap Screened.toCandidate, screen s k.chain (qs.get k.chain) = .candidate k := by
    intro k hk
    rw [List.mem_filterMap] at hk
    obtain ⟨x, hx, hk⟩ := hk
    have : ∃ c, x = screen s c (qs.get c) := by
      rw [hl] at hx
      simp only [List.mem_cons, List.not_mem_nil, or_false] at hx
      rcases hx with e | e | e | e <;> exact ⟨_, e⟩
    obtain ⟨c, rfl⟩ := this
    cases hc : screen s c (qs.get c) with
    | decided v w t => rw [hc] at hk; cases hk
    | candidate k' =>
      rw [hc] at hk
      have : k' = k := Option.some.inj hk
      subst this
      have := (screen_candidate hc).1
      rw [this]; exact hc
  have hnd : ((screenAll s qs).toList.filterMap Screened.toCandidate |>.map Candidate.chain).Nodup := by
    have hsub : ((screenAll s qs).toList.filterMap Screened.toCandidate |>.map Candidate.chain).Sublist [0, 1, 2, 3] := by
      rw [hl]
      have key : ∀ (cs : List Chain), (((cs.map fun c => screen s c (qs.get c)).filterMap Screened.toCandidate).map Candidate.chain).Sublist cs := by
        intro cs
        induction cs with
        | nil => exact .refl _
        | cons c cs ih =>
          rw [List.map_cons]
          cases hc : screen s c (qs.get c) with
          | decided v w t =>
            rw [List.filterMap_cons_none (by rfl)]
            exact ih.cons c
          | candidate k =>
            rw [List.filterMap_cons_some (b := k) (by rfl), List.map_cons, (screen_candidate hc).1]
            exact ih.cons_cons c
      exact key [0, 1, 2, 3]
    exact hsub.nodup (by decide)
  have ha := allocate_spec budget ((screenAll s qs).toList.filterMap Screened.toCandidate)
  generalize hks : (screenAll s qs).toList.filterMap Screened.toCandidate = ks at hmem hnd ha
  generalize hgs : allocate budget ks = gs at ha
  have hnd' : (gs.map fun g => g.1.chain).Nodup := by
    have e : (gs.map fun g => g.1.chain) = (gs.map Prod.fst).map Candidate.chain := by simp
    rw [e]
    obtain ⟨l, hp, hsl⟩ := ha.2.1
    exact (hp.map _).nodup_iff.1 ((hsl.map Candidate.chain).nodup hnd)
  have hin : ∀ g ∈ gs, g.1 ∈ ks := fun g hg => ha.2.1.subset (List.mem_map_of_mem hg)
  have hchain : ∀ c, ((computeGrants s budget qs).chains.get c) = decide8 gs (s.thermal.chains.get c).tj (screen s c (qs.get c)) := by
    intro c
    simp only [computeGrants, PerChain.get_mapIdx, hs, hks, hgs]
  have hcur : ∀ c, ((computeGrants s budget qs).chains.get c).verdict.current = currentOf gs c := by
    intro c
    rw [hchain]
    cases hc : screen s c (qs.get c) with
    | decided v w t =>
      have hv := screen_decided hc
      have h0 : v.current = 0 := by cases v <;> first | rfl | exact absurd rfl (hv _)
      rw [currentOf_absent]
      · exact h0
      · intro hm
        obtain ⟨g, hg, he⟩ := List.mem_map.1 hm
        have := hmem g.1 (hin g hg)
        rw [he, hc] at this; cases this
    | candidate k =>
      have hk := (screen_candidate hc).1
      simp only [decide8, hk]
      cases hg : grantOf gs c with
      | none => exact (grantOf_current gs c hg).symm
      | some p =>
        obtain ⟨k', hm, hkc, hcu⟩ := grantOf_some hg
        have := hmem k' (hin _ hm)
        rw [hkc, hc] at this
        injection this with this
        subst this
        exact hcu.symm
  refine ⟨?_, ?_, ?_⟩
  · have : (computeGrants s budget qs).used = usedBy gs := by simp only [computeGrants, hks, hgs]
    rw [this]; exact ha.1
  · rw [hcur, hcur, hcur, hcur]
    have : (computeGrants s budget qs).used = usedBy gs := by simp only [computeGrants, hks, hgs]
    rw [this]; exact usedBy_sum gs hnd'
  · intro c r' hr
    rw [hchain] at hr
    cases hc : screen s c (qs.get c) with
    | decided v w t =>
      rw [hc] at hr
      exact absurd hr (screen_decided hc _)
    | candidate k =>
      rw [hc] at hr
      have hk := (screen_candidate hc).1
      simp only [decide8, hk] at hr
      cases hg : grantOf gs c with
      | none => rw [hg] at hr; cases hr
      | some p =>
        rw [hg] at hr
        obtain ⟨k', hm, hkc, _⟩ := grantOf_some hg
        have hkk := hmem k' (hin _ hm)
        rw [hkc, hc] at hkk
        injection hkk with hkk
        subst hkk
        injection hr with hr
        subst hr
        obtain ⟨_, _, image, hsa⟩ := screen_candidate hc
        obtain ⟨e1, e2, e3, e4⟩ := screenActive_candidate hsa
        have r1 := clamp_bounds (qs.get c).power (-200) 112 (by omega)
        rw [← e1] at r1
        have r2 := chainCeiling_range (image := image) (h.1 c)
        rw [← e2] at r2
        have r3 := candidatePower_range (c := c) h r1.1 (show -200 ≤ k.cth by omega)
        rw [← e3] at r3
        have hp : p ≤ k.power ∧ k.clamped - 127 ≤ p ∧ -200 ≤ p := by
          rcases ha.2.2 _ hm p rfl with hp | ⟨b, hb, hp⟩
          · dsimp only at hp; omega
          · unfold offered at hp; dsimp only at hp; omega
        refine ⟨?_, ?_, ?_, ?_, ?_, ?_, ?_, ?_⟩ <;> dsimp only [onRecord] <;> omega

/-! ### Chains decided before the allocation (R27, R29) -/

/-- A chain that stages 1 to 5 decide is decided so, whatever the allocator does with the others. -/
theorem computeGrants_decided {s : State} {qs : PerChain ChainRequest} {c : Chain} {v : Verdict} {why : Reason}
    {cth : Option Int} (h : screen s c (qs.get c) = .decided v why cth) (budget : Nat) :
    (computeGrants s budget qs).chains.get c = ⟨v, why, (s.thermal.chains.get c).tj⟩ := by
  simp only [computeGrants, screenAll, PerChain.get_mapIdx, PerChain.get_ofFn, h, decide8]

/-- An active chain under an exclusion leaves at stage 1, MUTED with its reason. -/
theorem screen_excluded {s : State} {c : Chain} {q : ChainRequest} {why : Reason} (ha : q.active = true)
    (he : exclusion s c q.profile = some why) : screen s c q = .decided (.muted none none) why none := by
  simp [screen, ha, he]

/-- A held prepare decides a chain that is not ON in force OFF, whatever has muted it (R8, R30). -/
theorem held_not_on {s : State} {c : Chain} (h : (s.slot.inForce.get c).force.state ≠ .on) (budget : Nat) :
    (computeGrants s budget (s.slot.inForce.mapIdx fun _ f => heldRequest f)).chains.get c =
      ⟨.off, .off, (s.thermal.chains.get c).tj⟩ := by
  refine computeGrants_decided (cth := none) ?_ budget
  rw [PerChain.get_mapIdx, heldRequest]
  split
  · next hf => exact absurd (by rw [hf]; rfl) h
  · simp [screen]
  · simp [screen]

/-! ### The last ceilings (R46) -/

theorem computeGrants_ceiling (s : State) (budget : Nat) (qs : PerChain ChainRequest) (c : Chain) :
    (computeGrants s budget qs).ceilings.get c = (screen s c (qs.get c)).ceiling := by
  fin_cases c <;> rfl

/-- A chain that leaves at stage 1 has the ceiling NONE. -/
theorem screen_ceiling_none {s : State} {c : Chain} {q : ChainRequest}
    (h : q.active = false ∨ exclusion s c q.profile ≠ none) : (screen s c q).ceiling = none := by
  unfold screen
  rcases h with h | h
  · simp [h, Screened.ceiling]
  · split
    · rfl
    · cases he : exclusion s c q.profile with
      | none => exact absurd he h
      | some why => rfl

/-- A chain that reaches stage 3 has the ceiling formed there. -/
theorem screen_ceiling_some {s : State} {c : Chain} {q : ChainRequest} {image : ProfileImage} (ha : q.active = true)
    (he : exclusion s c q.profile = none) (hi : namedImage s q.profile = some image) :
    (screen s c q).ceiling = some (chainCeiling s c image) := by
  simp only [screen, ha, he, hi, screenActive]
  rw [if_neg (by simp)]
  split <;> rfl

end Sys2Proof.Machine
end

