-- ==== Sys2Proof/Laws/Induction.lean ====
section
/-! SUPPORT. The induction over the machine, once: a property that each of the part's elementary events keeps is kept by
every step. `KeptByEvents` lists the elementary events with what is known where each happens; `KeptByEvents.step` goes
through the 52 commands, the scan of the directive list and the fourteen kinds for every such property. -/

namespace Sys2Proof.Machine

/-- A property kept by each elementary event of the sorts that may occur. -/
structure KeptByEvents (ok : EventSort → Prop) (inv : State → Prop) : Prop where
  powerOn : ok .powerOn → ∀ s, inv s → inv (powerOnReset s)
  warm : ok .warm → ∀ s, inv s → inv (warmReset s)
  pins : ∀ p s, inv s → inv { s with pins := p }
  prepare : ok .prepare → ∀ atTrip s, inv s → s.governor.state = .running → inv (prepare atTrip s)
  activatePrepared : ok .activate → ∀ p s, inv s → s.governor.state = .running → s.slot.prepared = some p →
    inv (activatePrepared p s)
  activateOrphan : ok .activate → ∀ s, inv s → s.governor.state = .running → s.slot.prepared = none →
    inv (activateOrphan s)
  transfer : ∀ ack s, inv s → inv (transferCompleted ack s)
  estimator : ok .thermal → ∀ s, inv s → inv (stepEstimator s)
  watch : ok .thermal → ∀ s, inv s → watchCounts s = true →
    inv { s with slot := { s.slot with watch := s.slot.watch - 1 } }
  stop : ok .thermal ∨ ok .evaluation → ∀ why stamp s, inv s → inv (requestStop why stamp s)
  table : ok .evaluation → ∀ s, inv s → inv (evaluateTable s)
  scanDone : ok .scan → ∀ raw s, inv s → inv (scanCompleted raw s)
  setupSlots : ok .directive → ∀ n code m w s, inv s → m ≤ 7 → 1 ≤ w → w ≤ 255 →
    s.governor.state = .idle ∨ s.governor.state = .stopped → inv (setupSlots n code m w s)
  setupChain : ok .directive → ∀ c (k : ChainConfig) s, inv s → 3840 ≤ k.tsoft → k.tsoft ≤ 11200 → -80 ≤ k.floor →
    k.floor ≤ 120 →
    -2560 ≤ k.fallback → k.fallback ≤ 11200 → inv { s with config := s.config.set c k }
  setupCondition : ok .directive → ∀ id trip dwell recovery hold cap s, inv s →
    condSetupFault id trip recovery cap = none →
    inv (replaceEntry id (setupEntry trip dwell recovery hold cap s.supervisor.entries[id]) s)
  setupSupply : ok .directive → ∀ b s, inv s → b ≤ 8000 →
    inv (formBudget { s with supply := { s.supply with configured := b } })
  setupChannel : ok .directive → ∀ ch (p : ChannelPair) s, inv s → -2560 ≤ p.intercept → p.intercept ≤ 11200 →
    1 ≤ p.slope →
    p.slope ≤ 32767 → s.governor.state ≠ .init → inv (setChannel ch p s)
  loadTaken : ok .directive → ∀ j s, inv s → inv (fillBuffer j s)
  drop : ok .directive → ∀ j s, inv s → inv (dropProfile j s)
  measuring : ok .directive → ∀ mode s, inv s → mode = .calibrating ∨ mode = .selftesting → s.governor.state ≠ .init →
    inv (beginMeasuring mode s)
  captureOn : ok .directive → ∀ tags d t s, inv s → tags.length ≤ 8 → 1 ≤ d → d ≤ 255 → t ≤ 1023 →
    s.governor.state = .idle ∨ s.governor.state = .running → inv (startCapture tags d t s)
  captureOff : ok .directive → ∀ s, inv s → inv (stopCapture s)
  release : ok .directive → ∀ c s, inv s → condState s (chainEntry c 2) = .latched → stillPresent s c = false →
    inv (releaseLatch c s)
  discard : ok .directive → ∀ e s, inv s → entryState s.xm e = 1 → inv (putEntry e 5 .ok [] s)
  complete : ok .directive → ∀ state why data notify s, inv s → state = 3 ∨ state = 4 →
    inv (completeEntry state why data notify s)
  active : ok .directive → ∀ a s, inv s → s.directives.active = none → s.governor.state ≠ .init →
    inv { putEntry s.directives.cursor 2 .ok [] s with directives := { s.directives with active := some a } }
  timer : ok .directive → ∀ a t s, inv s → s.directives.active = some a → a.timer = some t →
    inv { s with directives := { s.directives with active := some { a with timer := some (t - 1) } } }
  measure : ok .directive → ∀ half m s, inv s → s.directives.active.isSome = true → inv (measure half m s)
  loadDone : ok .directive → ∀ s, inv s → s.directives.active.isSome = true → inv (finishLoad s)
  calibrate : ok .directive → ∀ ms s, inv s → s.directives.active.isSome = true →
    inv (applyCalibration (calibrationOf ms) s)
  settle : ok .directive → ∀ s, inv s → s.directives.active.isSome = true → inv (beginSettling s)
  captureStep : ∀ atStart s, inv s → inv (captureStep atStart s)
  burst : ∀ b s, inv s → s.capture.burst = some b → inv (quietAfterBurst (landBurst b s))
  stoppedIfQuiet : ∀ s, inv s → inv (enterStoppedIfQuiet s)
  host : ok .hostWrite → ∀ a data s, inv s → inv { s with xm := hostWrite s.xm a data }
  reading : ∀ r b s, inv s → inv { s with port := { s.port with reading := r, sent := b } }
  ncause : ∀ v s, inv s → inv (writeNcause v s)
  nmask : ∀ v s, inv s → inv (writeNmask v s)
  run1 : ∀ s, inv s → inv (writeRun1 s)
  run0 : ∀ s, inv s → inv (writeRun0 s)
  post : ok .directive → ∀ kind notify a s, inv s → inv (postAtCursor kind notify a s)
  board : ∀ s, inv s → inv (publishBoard s)

/-- What an answer carries keeps the property, and an answer that makes a directive active stands where none is. -/
def Taken.Keeps (inv : State → Prop) : Taken → Prop
  | .done s _ => inv s
  | .failed s _ _ => inv s
  | .active s _ _ => inv s ∧ s.directives.active = none ∧ s.governor.state ≠ .init

namespace KeptByEvents

variable {ok : EventSort → Prop} {inv : State → Prop} (k : KeptByEvents ok inv)
include k

theorem endReading {s : State} (h : inv s) : inv (Machine.endReading s) :=
  k.reading none s.port.sent s h

omit k in
theorem held {f : State → State} (hf : ∀ s, inv s → inv (f s)) {s : State} (h : inv s) : inv (unlessHeld f s) := by
  unfold unlessHeld
  split
  · exact h
  · exact hf s h

theorem activate (ha : ok .activate) {s : State} (h : inv s) (hr : s.governor.state = .running) : inv (Machine.activate s) := by
  unfold Machine.activate
  split
  · next hp => exact k.activatePrepared ha _ _ h hr hp
  · next hp => exact k.activateOrphan ha _ h hr hp

omit k in
theorem strobe {f : State → State} (hf : ∀ s, inv s → s.governor.state = .running → inv (f s)) {s : State}
    (h : inv s) : inv (inRunning f s) := by
  unfold inRunning
  split
  · next hr => exact hf s h hr
  · exact h

theorem thermalStep (ht : ok .thermal) {s : State} (h : inv s) : inv (Machine.thermalStep s) := by
  unfold Machine.thermalStep stepWatch
  have h1 := k.estimator ht s h
  split
  · next hw =>
    have h2 := k.watch ht _ h1 hw
    dsimp only
    split
    · exact k.stop (.inl ht) _ _ _ h2
    · exact h2
  · exact h1

theorem evaluate (he : ok .evaluation) {s : State} (h : inv s) : inv (Machine.evaluate s) := by
  unfold Machine.evaluate
  have h1 := k.table he s h
  dsimp only
  split
  · exact k.stop (.inr he) _ _ _ h1
  · exact h1

/-! ### The directive list -/

theorem settled (hd : ok .directive) {t : Taken} (notify : Bool) (h : t.Keeps inv) : inv (Machine.settle notify t) := by
  cases t with
  | done s data => exact k.complete hd _ _ _ _ _ h (.inl rfl)
  | failed s why data => exact k.complete hd _ _ _ _ _ h (.inr rfl)
  | active s kind timer => exact k.active hd _ _ h.1 h.2.1 h.2.2

theorem discardRun (hd : ok .directive) (fuel : Nat) (e : BitVec 5) {s : State} (h : inv s) : inv (Machine.discardRun fuel e s).1 := by
  induction fuel generalizing e s with
  | zero => exact h
  | succ fuel ih =>
    unfold Machine.discardRun
    split
    · next he => exact ih _ (k.discard hd e s h he)
    · exact h

/-- Each of the fourteen kinds, taken in a state that accepts it, with no directive active. -/
theorem takeKind (hd : ok .directive) {kind : Nat} {a : List Byte} {s : State} (h : inv s) (hn : s.directives.active = none)
    (ha : accepted kind s.governor.state = true) : (Machine.takeKind kind a s).Keeps inv := by
  have hi : s.governor.state ≠ .init := by
    intro he
    rw [he] at ha
    exact absurd ha (by simp [accepted])
  unfold Machine.takeKind
  split
  · unfold takeSlotSetup badArgument
    split
    · split
      · exact h
      · split
        · exact h
        · have hs : s.governor.state = .idle ∨ s.governor.state = .stopped := by
            revert ha; cases s.governor.state <;> simp [accepted]
          have hw : arg8 a 8 ≤ 255 := by
            have := (a.getD (8 - 4) 0).isLt
            simp only [arg8]; omega
          exact k.setupSlots hd _ _ _ _ s h (by omega) (by omega) hw hs
    · exact h
  · unfold takeChainSetup badArgument
    split
    · split
      · exact h
      · split
        · exact h
        · split
          · exact h
          · exact k.setupChain hd _ _ s h (by dsimp only; omega) (by dsimp only; omega) (by dsimp only; omega)
              (by dsimp only; omega) (by dsimp only; omega) (by dsimp only; omega)
    · exact h
  · unfold takeConditionSetup badArgument
    split
    · dsimp only
      split
      · exact h
      · next hf => exact k.setupCondition hd _ _ _ _ _ _ s h hf
    · exact h
  · unfold takeSupplySetup badArgument
    split
    · exact h
    · exact k.setupSupply hd _ s h (by omega)
  · unfold takeSensorSetup badArgument
    split
    · split
      · exact h
      · split
        · exact h
        · exact k.setupChannel hd _ _ s h (by dsimp only; omega) (by dsimp only; omega) (by dsimp only; omega)
            (by dsimp only; omega) hi
    · exact h
  · unfold takeProfileLoad badArgument
    split
    · exact ⟨k.loadTaken hd _ s h, hn, hi⟩
    · exact h
  · unfold takeProfileDrop badArgument
    split
    · exact k.drop hd _ s h
    · exact h
  · exact ⟨k.measuring hd _ s h (.inl rfl) hi, hn, hi⟩
  · exact ⟨k.measuring hd _ s h (.inr rfl) hi, hn, hi⟩
  · unfold takeCaptureStart badArgument
    dsimp only
    split
    · exact h
    · split
      · exact h
      · split
        · exact h
        · split
          · exact h
          · have hs : s.governor.state = .idle ∨ s.governor.state = .running := by
              revert ha; cases s.governor.state <;> simp [accepted]
            have h13 : arg8 a 13 ≤ 255 := by
              have := (a.getD (13 - 4) 0).isLt
              simp only [arg8]; omega
            exact k.captureOn hd _ _ _ s h (by simp; omega) (by omega) h13 (by omega) hs
  · unfold takeCaptureStop
    split
    · exact ⟨h, hn, hi⟩
    · exact k.captureOff hd s h
  · unfold takeReleaseLatch badArgument
    split
    · dsimp only
      split
      · exact h
      · split
        · exact h
        · next hl hp => exact k.release hd _ s h (by simpa using hl) (by simpa using hp)
    · exact h
  · unfold takePause badArgument
    split
    · exact h
    · exact ⟨h, hn, hi⟩
  · exact k.discardRun hd 31 _ h
  · exact h

theorem takeDirective (hd : ok .directive) {kind : Byte} {a : List Byte} {s : State} (h : inv s) (hn : s.directives.active = none) :
    (Machine.takeDirective kind a s).Keeps inv := by
  unfold Machine.takeDirective
  split
  · exact h
  · split
    · next ha => exact k.takeKind hd h hn ha
    · exact h

theorem scanFrom (hd : ok .directive) (fuel : Nat) {s : State} (h : inv s) : inv (Machine.scanFrom fuel s) := by
  induction fuel generalizing s with
  | zero => exact h
  | succ fuel ih =>
    unfold Machine.scanFrom
    split
    · next hc => exact ih (k.settled hd _ (k.takeDirective hd h (by simpa using hc.1)))
    · exact h

theorem scan (hd : ok .directive) {s : State} (h : inv s) : inv (Machine.scan s) := by
  unfold Machine.scan
  split
  · exact h
  · exact k.scanFrom hd 32 h

theorem completeActive (hd : ok .directive) (a : ActiveDirective) {t : Taken} (h : t.Keeps inv) : inv (Machine.completeActive a t) :=
  k.scan hd (k.settled hd _ h)

theorem answerTimed (hd : ok .directive) (kind : ActiveKind) {s : State} (h : inv s) (ha : s.directives.active.isSome = true) :
    (Machine.answerTimed kind s).Keeps inv := by
  cases kind with
  | profileLoad j =>
    simp only [Machine.answerTimed, answerLoad]
    split
    · exact k.loadDone hd s h ha
    · exact k.loadDone hd s h ha
  | calibrate =>
    have hc := k.calibrate hd s.sensors.measurements s h ha
    have hca : (applyCalibration (calibrationOf s.sensors.measurements) s).directives.active.isSome = true := by
      rw [applyCalibration_frame]
      exact ha
    simp only [Machine.answerTimed, answerCalibrate]
    split
    · exact k.settle hd _ hc hca
    · exact k.settle hd _ hc hca
  | selftest => exact k.settle hd _ h ha
  | captureStop => exact h
  | pause n => exact h

theorem directiveStep (hd : ok .directive) (m : Measurement) {s : State} (h : inv s) : inv (Machine.directiveStep m s) := by
  unfold Machine.directiveStep
  split
  · exact k.scan hd h
  · next a ha =>
    split
    · exact h
    · next t ht =>
      have hi : s.directives.active.isSome = true := by rw [ha]; rfl
      have hm : inv (stepMeasurement a.kind m s) := by
        unfold stepMeasurement
        split
        · exact k.measure hd 8 m s h hi
        · exact k.measure hd 4 m s h hi
        · exact h
        · exact h
        · exact h
      have hact : (stepMeasurement a.kind m s).directives.active = some a := by
        rw [← ha]
        unfold stepMeasurement
        split <;> rfl
      dsimp only
      split
      · exact k.completeActive hd a (k.answerTimed hd a.kind hm (by rw [hact]; rfl))
      · exact k.timer hd a t _ hm hact ht

theorem nudgeWrite (hd : ok .directive) {s : State} (h : inv s) : inv (Machine.nudgeWrite s) := by
  unfold Machine.nudgeWrite
  split
  · exact h
  · exact k.scan hd h

theorem issue (hd : ok .directive) (kind : Byte) (notify : Bool) (a : List Byte) {s : State} (h : inv s) :
    inv (Machine.issue kind notify a s) :=
  held (fun _ h => k.nudgeWrite hd (k.post hd kind notify a _ (k.endReading h))) h

/-! ### Capture, stop, port -/

theorem burstCompleted (hd : ok .directive) {s : State} (h : inv s) : inv (Machine.burstCompleted s) := by
  unfold Machine.burstCompleted
  split
  · exact h
  · next b hb =>
    have h1 := k.burst b s h hb
    unfold afterBurst
    dsimp only
    split
    · split
      · exact k.completeActive hd _ (t := .done _ []) (k.captureOff hd _ h1)
      · exact h1
    · exact h1

theorem enterStopped (hd : ok .directive) (ack : Bool) {s : State} (h : inv s) : inv (Machine.enterStopped ack s) := by
  unfold Machine.enterStopped
  split
  · split
    · split
      · exact k.stoppedIfQuiet s h
      · exact k.burstCompleted hd h
    · split
      · exact k.transfer ack s h
      · exact h
  · exact h

theorem writeGctl (v : Half) (hw : v.getLsbD 1 = true → ok .warm) {s : State} (h : inv s) :
    inv (Machine.writeGctl v s) := by
  unfold Machine.writeGctl
  split
  · next hv => exact k.warm (hw hv) s h
  · split
    · exact k.run1 s h
    · exact k.run0 s h

omit k in
theorem writeHalf {write : Half → State → State} (hw : ∀ v s, inv s → inv (write v s)) (v : Option Half) {s : State}
    (h : inv s) : inv (Machine.writeHalf write v s) := by
  cases v with
  | none => exact h
  | some v => exact hw v s h

theorem writeUpperRegisters (hd : ok .directive) (start : Half) (data : List Byte) {s : State} (h : inv s) :
    inv (Machine.writeUpperRegisters start data s) := by
  have h1 := writeHalf k.nmask (halfAt start data 0x4008) (writeHalf k.ncause (halfAt start data 0x4006) h)
  unfold Machine.writeUpperRegisters
  dsimp only
  split
  · exact k.nudgeWrite hd h1
  · exact h1

theorem writeTransaction (bytes : List Byte) (hd : ok .directive) (hh : ok .hostWrite)
    (hw : carriesWarmReset bytes = true → ok .warm) {s : State} (h : inv s) :
    inv (Machine.writeTransaction bytes s) := by
  unfold Machine.writeTransaction
  split
  · next hi lo data =>
    unfold landWrite writeRegisters
    have hl : inv { Machine.endReading s with xm := hostWrite s.xm (hi ++ lo) (data.take 256) } :=
      k.host hh (hi ++ lo) (data.take 256) _ (k.endReading h)
    simp only [carriesWarmReset] at hw
    dsimp only
    split
    · next v hv =>
      rw [hv] at hw
      split
      · exact k.writeGctl _ hw hl
      · exact k.writeUpperRegisters hd _ _ (k.writeGctl _ hw hl)
    · exact k.writeUpperRegisters hd _ _ hl
  · exact k.endReading h

theorem readCommand (quad : Bool) (phase : ReadPhase) {s : State} (h : inv s) :
    inv (Machine.readCommand quad phase s) := by
  unfold Machine.readCommand
  split
  · split
    · exact k.reading _ _ s h
    · exact k.reading none [] s h
  · split
    · split
      · exact k.reading _ _ s h
      · exact h
    · exact h

theorem registerTransaction {write : State → State} (hw : ∀ s, inv s → inv (write s)) {s : State} (h : inv s) :
    inv (Machine.registerTransaction write s) :=
  held (fun _ h => hw _ (k.endReading h)) h

/-! ### The commands and the step -/

omit k in
/-- An elementary event that comes about only where a test holds. -/
theorem whenever {f : State → State} (hf : ∀ s, inv s → inv (f s)) (b : Bool) {s : State} (h : inv s) :
    inv (if b = true then f s else s) := by
  split
  · exact hf s h
  · exact h

/-- Every command that raises only sorts of event that may occur keeps the property. -/
theorem command {c : Instr} (hc : ∀ x, raises c x = true → ok x) {s t : State} (h : inv s) (he : exec c s = .next t) :
    inv t := by
  cases c <;> injection he with he <;> subst he
  case powerOnReset => exact k.powerOn (hc _ rfl) s h
  case resetN => exact k.pins _ _ (held (k.warm (hc _ rfl)) h)
  case resetRelease => exact k.pins _ _ h
  case slotp => exact held (fun s h => strobe (k.prepare (hc _ rfl) (tripAtPrepare s)) h) h
  case slota => exact held (fun _ h => strobe (fun _ => k.activate (hc _ rfl)) h) h
  case driveLinkCut c => exact whenever (fun _ h => held (fun _ h => strobe (fun _ => k.activate (hc _ rfl)) h) h) _ h
  case driveLinkCutClear c =>
    exact whenever (fun _ h => held (fun _ h => strobe (fun _ => k.activate (hc _ rfl)) h) h) _ h
  case transferCompletion ack => exact held (k.transfer ack) h
  case thermalStep => exact held (fun _ h => k.thermalStep (hc _ rfl) h) h
  case transmitWatchExpiry => exact whenever (fun _ h => held (fun _ h => k.thermalStep (hc _ rfl) h) h) _ h
  case enterStopped ack => exact held (fun _ h => k.enterStopped (hc _ rfl) ack h) h
  case conditionEvaluation => exact held (fun _ h => k.evaluate (hc _ rfl) h) h
  case conditionTrip id => exact whenever (fun _ h => held (fun _ h => k.evaluate (hc _ rfl) h) h) _ h
  case conditionClear id => exact whenever (fun _ h => held (fun _ h => k.evaluate (hc _ rfl) h) h) _ h
  case scanCompletion raw => exact held (k.scanDone (hc _ rfl) raw) h
  case settlingEnd raw => exact whenever (fun _ h => held (k.scanDone (hc _ rfl) raw) h) _ h
  case initComplete raw => exact whenever (fun _ h => held (k.scanDone (hc _ rfl) raw) h) _ h
  case directiveStepEvent m => exact held (fun _ h => k.directiveStep (hc _ rfl) m h) h
  case nudge => exact held (fun _ h => k.nudgeWrite (hc _ rfl) (k.endReading h)) h
  case profileLoadCompletion => exact whenever (fun _ h => held (fun _ h => k.directiveStep (hc _ rfl) _ h) h) _ h
  case calibrateCompletion m => exact whenever (fun _ h => held (fun _ h => k.directiveStep (hc _ rfl) _ h) h) _ h
  case selftestCompletion m => exact whenever (fun _ h => held (fun _ h => k.directiveStep (hc _ rfl) _ h) h) _ h
  case pauseCompletion => exact whenever (fun _ h => held (fun _ h => k.directiveStep (hc _ rfl) _ h) h) _ h
  case captureStepEvent atStart => exact held (k.captureStep atStart) h
  case burstPreparation => exact whenever (fun _ h => held (k.captureStep false) h) _ h
  case burstCompletion => exact held (fun _ h => k.burstCompleted (hc _ rfl) h) h
  case statusBoardPublication => exact held k.board h
  case spiWrite bytes =>
    exact held (fun _ h => k.writeTransaction bytes (hc _ rfl) (hc _ rfl) (fun hw => hc _ (by simp [raises, hw])) h) h
  case spiQuadWrite bytes =>
    exact held (fun _ h => k.writeTransaction bytes (hc _ rfl) (hc _ rfl) (fun hw => hc _ (by simp [raises, hw])) h) h
  case spiRead phase => exact held (fun _ h => k.readCommand _ phase h) h
  case spiQuadRead phase => exact held (fun _ h => k.readCommand _ phase h) h
  case runWritten1 => exact k.registerTransaction (fun _ h => k.writeGctl _ (fun hv => absurd hv (by decide)) h) h
  case runWritten0 => exact k.registerTransaction (fun _ h => k.writeGctl _ (fun hv => absurd hv (by decide)) h) h
  case warmReset => exact k.registerTransaction (fun _ h => k.writeGctl _ (fun _ => hc _ rfl) h) h
  case ncauseClear bits => exact k.registerTransaction (k.ncause bits) h
  case stoppedClear => exact k.registerTransaction (k.ncause _) h
  case nmask value => exact k.registerTransaction (k.nmask value) h
  case registerWrite register value => exact k.registerTransaction (fun _ h => h) h
  all_goals exact k.issue (hc _ rfl) _ _ _ h

/-- Every step keeps a property that does not look at the queue, where every sort of event may occur. -/
theorem step (hok : ∀ x, ok x) (hq : ∀ q s, inv s → inv { s with pending := q }) : StepKeeps inv := by
  intro s t h he
  unfold Machine.step at he
  split at he
  · injection he with he
    exact he ▸ h
  · exact k.command (fun x _ => hok x) (hq _ s h) he

end KeptByEvents

end Sys2Proof.Machine
end

