-- ==== Sys2Proof/Laws/Lines.lean ====
section
/-! SUPPORT. The lines of the Memory Port: what a whole transaction on them leaves behind, by the commands due at its bytes
and at the rising edge. -/

namespace Sys2Proof.Machine

/-- The commands due at each of some bytes, after those already received. -/
def dueAtBytes : List Byte → List Byte → List Instr
  | _, [] => []
  | got, b :: bs => atByte (got ++ [b]) ++ dueAtBytes (got ++ [b]) bs

/-- Bytes received in one transaction queue what is due at each of them. -/
theorem lineEvents_bytes (s : State) (h : resetHeld s = false) (got bs : List Byte) (cs : List Instr) :
    lineEvents (bs.map .byteEnds) (enqueue cs (receive (some got) s)) =
      enqueue (cs ++ dueAtBytes got bs) (receive (some (got ++ bs)) s) := by
  induction bs generalizing got cs with
  | nil => simp [lineEvents, dueAtBytes]
  | cons b bs ih =>
    have hb : lineEvent (.byteEnds b) (enqueue cs (receive (some got) s)) =
        enqueue (cs ++ atByte (got ++ [b])) (receive (some (got ++ [b])) s) := by
      have h' : resetHeld (enqueue cs (receive (some got) s)) = false := h
      simp only [lineEvent, h']
      simp [enqueue, receive]
    simp only [List.map_cons, lineEvents, List.foldl_cons] at ih ⊢
    rw [hb, ih]
    simp [dueAtBytes]

/-- A whole transaction: its commands queued, none in progress, nothing else touched; the byte cut short counts for nothing. -/
theorem lineEvents_transaction (s : State) (h : resetHeld s = false) (bs : List Byte) (cut : List Bool) :
    lineEvents (transaction bs cut) s = enqueue (dueAtBytes [] bs ++ atRise bs) (receive none s) := by
  have h1 : lineEvent .csFalls s = enqueue [] (receive (some []) s) := by simp [lineEvent, h, enqueue, receive]
  have h2 := lineEvents_bytes s h [] bs []
  simp only [transaction, lineEvents, List.cons_append, List.foldl_cons, List.foldl_append, h1] at h2 ⊢
  rw [h2]
  have h' : resetHeld (enqueue (dueAtBytes [] bs) (receive (some bs) s)) = false := h
  simp only [List.foldl_nil, List.nil_append, lineEvent, h']
  simp [enqueue, receive]

/-- While a reset is held the lines do nothing. -/
theorem lineEvent_held (s : State) (e : LineEvent) (h : resetHeld s = true) : lineEvent e s = s := by
  simp [lineEvent, h]

end Sys2Proof.Machine
end

