-- ==== Sys2Proof/Laws/Port.lean ====
section
/-! SUPPORT. The memory port: the block an address lies in, and what a read serves from its snapshots. -/

namespace Sys2Proof.Machine

theorem block_toNat (a : Half) : (a &&& 0xFFC0).toNat = a.toNat / 64 * 64 := by
  have h : a &&& (0xFFC0 : Half) = (a >>> 6) <<< 6 := by
    apply BitVec.eq_of_getLsbD_eq
    intro i hi
    interval_cases i <;> simp
  have := a.isLt
  rw [h, BitVec.toNat_shiftLeft, BitVec.toNat_ushiftRight, Nat.shiftRight_eq_div_pow, Nat.shiftLeft_eq]
  omega

theorem block_add (a : Half) : (a &&& 0xFFC0) + BitVec.ofNat 16 (a.toNat % 64) = a := by
  apply BitVec.eq_of_toNat_eq
  have := a.isLt
  rw [BitVec.toNat_add, block_toNat, BitVec.toNat_ofNat]
  omega

theorem block_succ {a : Half} (h : (a + 1).toNat % 64 ≠ 0) : (a + 1) &&& 0xFFC0 = a &&& 0xFFC0 := by
  apply BitVec.eq_of_toNat_eq
  rw [block_toNat, block_toNat]
  have h1 : (1 : BitVec 16).toNat = 1 := rfl
  have := a.isLt
  rw [BitVec.toNat_add, h1] at h ⊢
  omega

/-- A snapshot holds, at its place, the byte the port answers. -/
theorem snapshot_getD (s : State) (a : Half) : (snapshot s a).getD (a.toNat % 64) 0 = portByte s a := by
  unfold snapshot
  rw [List.getD_eq_getElem?_getD, List.getElem?_map, List.getElem?_range (by omega)]
  simp only [Option.map_some, Option.getD_some, block_add]

/-- The block a read holds serves the bytes up to the next boundary. -/
def BlockCurrent (s : State) (t : ReadTransaction) : Prop :=
  t.block = [] ∨ t.next.toNat % 64 = 0 ∨ t.block = snapshot s t.next

theorem snapshot_of_same_block (s : State) (a b : Half) (h : a &&& 0xFFC0 = b &&& 0xFFC0) : snapshot s a =
    snapshot s b := by
  unfold snapshot; rw [h]

/-- What serving `n` bytes of a read comes to while nothing changes the state. -/
theorem serveBytes_whole (s : State) (n : Nat) (t : ReadTransaction) (hg : BlockCurrent s t) :
    (serveBytes s n t).2 = (List.range n).map (fun i => portByte s (t.next + BitVec.ofNat 16 i)) ∧
    (serveBytes s n t).1.quad = t.quad ∧ (serveBytes s n t).1.next = t.next + BitVec.ofNat 16 n ∧
    (0 < n → (serveBytes s n t).1.block = snapshot s (t.next + BitVec.ofNat 16 (n - 1))) := by
  induction n generalizing t with
  | zero => simp [serveBytes]
  | succ n ih =>
    unfold serveBytes
    dsimp only
    have hb : (if (t.block.isEmpty || decide (t.next.toNat % 64 = 0)) = true then snapshot s t.next else t.block) =
        snapshot s t.next := by
      rcases hg with h | h | h
      · simp [h]
      · simp [h]
      · split
        · rfl
        · exact h
    rw [hb]
    have hg' : BlockCurrent s { t with next := t.next + 1, block := snapshot s t.next } := by
      by_cases h0 : (t.next + 1).toNat % 64 = 0
      · exact .inr (.inl h0)
      · exact .inr (.inr (snapshot_of_same_block s _ _ (block_succ h0).symm))
    obtain ⟨a, b, c, d⟩ := ih _ hg'
    have hs : ∀ i, (t.next + 1 + BitVec.ofNat 16 i) = t.next + BitVec.ofNat 16 (i + 1) := by
      intro i; apply BitVec.eq_of_toNat_eq; simp [BitVec.toNat_add]; omega
    refine ⟨?_, b, ?_, ?_⟩
    · rw [a, snapshot_getD]
      rw [List.range_succ_eq_map, List.map_cons, List.map_map]
      simp only [List.cons.injEq]
      refine ⟨by simp, List.map_congr_left fun i _ => ?_⟩
      simp only [Function.comp]; rw [hs]
    · rw [c, hs]
    · intro _
      by_cases hn : n = 0
      · subst hn; simp [serveBytes]
      · rw [d (by omega)]
        simp only
        rw [hs]; congr 3; omega

end Sys2Proof.Machine
end

