-- ==== Sys2Proof/Laws/Post.lean ====
section
/-! SUPPORT. A directive posted at the cursor (log entry 2): the bytes of its entry's write transaction land as
`postAtCursor` writes them, and the row is that transaction followed by a NUDGE. -/

namespace Sys2Proof.Machine

theorem hostWrite_wf {m : Memory} (h : m.wf) (a : Half) (bs : List Byte) : (hostWrite m a bs).wf := by
  induction bs generalizing m a with
  | nil => exact h
  | cons b bs ih =>
    refine ih ?_ _
    unfold hostByte
    split
    · exact memStore_wf h _ _
    · exact h

theorem postAtCursor_wf {s : State} (h : s.xm.wf) (kind : Byte) (notify : Bool) (a : List Byte) :
    (postAtCursor kind notify a s).xm.wf := by
  unfold postAtCursor
  split
  · exact h
  · exact memStore_wf (memStore_wf h _ _) _ _

/-- The bytes with which the host writes a directive entry (R149, R190). -/
def postBytes (kind : Byte) (notify : Bool) (a : List Byte) : List Byte :=
  [1, kind, if notify then 1 else 0, 0] ++ a ++ List.replicate (20 - a.length) 0

theorem hostByteLands_entry (m : Memory) (e : BitVec 5) (k : Nat) (hk : k < 24) (b : Byte) :
    hostByteLands m (entryAddr e + k) b =
      if entryState m e = 2 then false else if k = 0 then b.toNat < 2 || 5 < b.toNat else decide (k ≠ 3) := by
  have he := e.isLt
  have hb := entryAddr_bounds e
  have h1 : (entryAddr e + k) % 32 = k := by unfold entryAddr; omega
  unfold hostByteLands directiveByteLands entryState
  rw [if_neg (by omega), if_neg (by omega), if_pos (by omega), h1, Nat.add_sub_cancel]
  simp [hk]

theorem hostWrite_post (s : State) (h : s.xm.wf) (kind : Byte) (notify : Bool) (a : List Byte) (hl : a.length ≤ 20) :
    hostWrite s.xm (BitVec.ofNat 16 (entryAddr s.directives.cursor)) (postBytes kind notify a) =
      (postAtCursor kind notify a s).xm := by
  refine Memory.ext_of_wf (hostWrite_wf h _ _) (postAtCursor_wf h _ _ _) fun x => ?_
  generalize hc : s.directives.cursor = e
  have he := entryAddr_bounds e
  have hlen : (postBytes kind notify a).length = 24 := by simp [postBytes]; omega
  rw [memRead_hostWrite _ _ _ (by omega)]
  by_cases hx : entryAddr e ≤ x ∧ x < entryAddr e + 24
  · obtain ⟨k, hk, rfl⟩ : ∃ k, k < 24 ∧ x = entryAddr e + k := ⟨x - entryAddr e, by omega, by omega⟩
    have hsub : (BitVec.ofNat 16 (entryAddr e + k) - BitVec.ofNat 16 (entryAddr e)).toNat = k := by
      simp [BitVec.toNat_sub]; omega
    rw [hsub]
    have hb : (postBytes kind notify a)[k]? = some ((postBytes kind notify a)[k]'(by omega)) :=
      List.getElem?_eq_getElem _
    rw [hb]
    simp only [hostByteLands_entry _ _ _ hk]
    by_cases hA : entryState s.xm e = 2
    · simp [postAtCursor, hc, hA]
    · simp only [postAtCursor, hc, hA, if_false, partWrite]
      have hl20 : ((a ++ zeros 20).take 20).length = 20 := by simp
      by_cases h4 : k < 4
      · rw [memRead_memStore_of_outside (by omega)]
        rcases k with _ | _ | _ | _ | k
        · rw [memRead_memStore_of_inside (i := 0) (by simp)]; simp [postBytes]; omega
        · rw [memRead_memStore_of_inside (i := 1) (by simp)]; simp [postBytes]; omega
        · rw [memRead_memStore_of_inside (i := 2) (by simp)]; simp [postBytes, flagBit]; omega
        · rw [memRead_memStore_of_outside (by simp)]; simp
        · omega
      · have : entryAddr e + k = entryAddr e + 4 + (k - 4) := by omega
        rw [this, memRead_memStore_of_inside (by omega), take20_getD _ _ (by omega)]
        have h0 : k ≠ 0 := by omega
        have h3 : k ≠ 3 := by omega
        simp only [h0, h3, if_false, ne_eq, not_false_eq_true, decide_true, and_true]
        rw [if_pos (by omega)]
        simp only [postBytes]
        by_cases hka : k - 4 < a.length
        · rw [List.getElem_append_left (by simp; omega), List.getElem_append_right (by simp; omega)]
          simp [List.getD, hka]
        · rw [List.getElem_append_right (by simp; omega)]
          simp [List.getD, hka]
  · have hpost : memRead (postAtCursor kind notify a s).xm x = memRead s.xm x := by
      unfold postAtCursor partWrite
      split
      · rfl
      · rw [hc]; simp only
        have hl20 : ((a ++ zeros 20).take 20).length = 20 := by simp
        rw [memRead_memStore_of_outside (by omega), memRead_memStore_of_outside (by simp; omega)]
    rw [hpost]
    split
    · next b hb =>
      have : (BitVec.ofNat 16 x - BitVec.ofNat 16 (entryAddr e)).toNat < 24 := by
        rw [← hlen]; exact (List.getElem?_eq_some_iff.1 hb).1
      rw [if_neg]
      rintro ⟨h1, -⟩
      simp [BitVec.toNat_sub] at this
      omega
    · rfl

/-- Log entry 2: a directive's row is the write transaction of its entry, followed by a NUDGE. -/
theorem issue_is_post_and_nudge (s : State) (h : s.xm.wf) (hr : resetHeld s = false) (kind : Byte) (notify : Bool)
    (a : List Byte) (hl : a.length ≤ 20) :
    let w : Half := BitVec.ofNat 16 (entryAddr s.directives.cursor)
    exec (.spiWrite (w.extractLsb' 8 8 :: w.extractLsb' 0 8 :: postBytes kind notify a)) s =
      .next (postAtCursor kind notify a (endReading s)) ∧
    .next (issue kind notify a s) = exec .nudge (postAtCursor kind notify a (endReading s)) := by
  intro w
  have hlen : (postBytes kind notify a).length = 24 := by simp [postBytes]; omega
  have he := entryAddr_bounds s.directives.cursor
  have hw : w.toNat = entryAddr s.directives.cursor := by simp [w]; omega
  have hnone : ∀ r : Half, 0x4000 ≤ r.toNat → byteAt w (postBytes kind notify a) r = none := by
    intro r h1
    unfold byteAt
    have := r.isLt
    rw [List.getElem?_eq_none]
    rw [hlen, BitVec.toNat_sub, hw]
    omega
  constructor
  · show Host.Outcome.next _ = _
    congr 1
    simp only [unlessHeld, hr, writeTransaction, landWrite,
      List.take_of_length_le (show (postBytes kind notify a).length ≤ 256 by omega)]
    have hj : (w.extractLsb' 8 8 ++ w.extractLsb' 0 8 : Half) = w := le16_join w
    rw [hj]
    simp only [writeRegisters, writeUpperRegisters, halfAt, hnone 0x4002 (by decide), hnone 0x4006 (by decide),
      hnone 0x4008 (by decide), hnone 0x400A (by decide), hnone 0x400B (by decide), writeHalf]
    have := hostWrite_post (endReading s) h kind notify a hl
    simp only [endReading] at this ⊢
    simp [w, this]
    unfold postAtCursor partWrite
    split <;> rfl
  · show Host.Outcome.next _ = Host.Outcome.next _
    congr 1
    have hp : resetHeld (postAtCursor kind notify a (endReading s)) = false := by
      rw [← hr]; unfold postAtCursor; split <;> rfl
    have hrd : endReading (postAtCursor kind notify a (endReading s)) = postAtCursor kind notify a (endReading s) := by
      unfold postAtCursor; split <;> rfl
    unfold issue unlessHeld
    rw [if_neg (by simp [hr]), if_neg (by simp [hp])]
    show nudgeWrite _ = nudgeWrite (endReading _)
    rw [hrd]
end Sys2Proof.Machine
end

