-- ==== Sys2Proof/Laws/Protection.lean ====
section
/-! SUPPORT. What the Protection Supervisor's shared operations do: a move of an entry, the cut requests brought up to
date, the latches recorded, an evaluation. -/

namespace Sys2Proof.Machine

/-! ### Cut requests -/

/-- A chain's cut request rises at a synchronisation. -/
def cutRises (s : State) (c : Chain) : Bool :=
  cutWanted s.supervisor.entries c && !s.supervisor.cutRequest.get c

theorem syncCut_supervisor (s : State) (c : Chain) :
    (syncCut s c).supervisor =
      { s.supervisor with cutRequest := s.supervisor.cutRequest.set c (cutWanted s.supervisor.entries c) } := by
  simp only [syncCut]
  split <;> rfl

theorem syncCut_slot (s : State) (c : Chain) :
    (syncCut s c).slot = if cutRises s c then (cutChain c (cutReason s c) s).slot else s.slot := by
  by_cases h : cutRises s c = true
  · have h' : (cutWanted s.supervisor.entries c && !s.supervisor.cutRequest.get c) = true := h
    simp [syncCut, h, h']
  · have h' : ¬(cutWanted s.supervisor.entries c && !s.supervisor.cutRequest.get c) = true := h
    simp only [syncCut, if_neg h, if_neg h']

theorem syncCuts_supervisor (s : State) :
    (syncCuts s).supervisor = { s.supervisor with cutRequest := .ofFn (cutWanted s.supervisor.entries) } := by
  simp only [syncCuts, assertMutes, mapDrive_supervisor, syncCut_supervisor]
  rfl

theorem syncCut_rises_other (s : State) (c d : Chain) (h : d ≠ c) : cutRises (syncCut s c) d = cutRises s d := by
  simp [cutRises, syncCut_supervisor, h]

theorem syncCut_reason (s : State) (c d : Chain) : cutReason (syncCut s c) d = cutReason s d := by
  have h1 : (syncCut s c).supervisor.entries = s.supervisor.entries := by rw [syncCut_supervisor]
  have h2 : (syncCut s c).thermal = s.thermal := by rw [syncCut_frame]
  unfold cutReason condState
  rw [h1, h2]

/-- One chain's record in force after one synchronisation. -/
theorem syncCut_inForce (s : State) (c d : Chain) :
    (syncCut s c).slot.inForce.get d =
      if d = c ∧ cutRises s c = true then ⟨.muted, cutReason s c⟩ else s.slot.inForce.get d := by
  rw [syncCut_slot]
  by_cases h : cutRises s c = true
  · by_cases hd : d = c <;> simp [h, hd]
  · simp [h]

/-- After all the synchronisations a chain whose request rose is MUTED in force with the cut's reason; every other chain is
as before. -/
theorem syncCuts_inForce (s : State) (c : Chain) :
    (syncCuts s).slot.inForce.get c =
      if cutRises s c = true then ⟨.muted, cutReason s c⟩ else s.slot.inForce.get c := by
  simp only [syncCuts, assertMutes, mapDrive_slot, syncCut_inForce, syncCut_reason]
  fin_cases c <;> simp [syncCut_rises_other]

/-- One chain's mark of being just cut after one synchronisation. -/
theorem syncCut_justCut (s : State) (c d : Chain) :
    (syncCut s c).slot.justCut.get d =
      if d = c ∧ cutRises s c = true then decide (s.governor.state = .running) else s.slot.justCut.get d := by
  rw [syncCut_slot]
  by_cases h : cutRises s c = true
  · by_cases hd : d = c <;> simp [h, hd]
  · simp [h]

/-- After all the synchronisations a chain whose request rose in RUNNING is marked as just cut; every
other chain is as before. -/
theorem syncCuts_justCut (s : State) (c : Chain) :
    (syncCuts s).slot.justCut.get c =
      if cutRises s c = true then decide (s.governor.state = .running) else s.slot.justCut.get c := by
  have hg (t : State) (d : Chain) : (syncCut t d).governor = t.governor := by rw [syncCut_frame]
  simp only [syncCuts, assertMutes, mapDrive_slot, syncCut_justCut, hg]
  fin_cases c <;> simp [syncCut_rises_other]

/-- The pending slot after one synchronisation. -/
theorem syncCut_prepared (s : State) (c : Chain) :
    (syncCut s c).slot.prepared =
      if cutRises s c then s.slot.prepared.map (cutPrepared c (cutReason s c)) else s.slot.prepared := by
  rw [syncCut_slot]
  split <;> rfl

theorem cutPrepared_chains (c d : Chain) (why : Reason) (p : Prepared) :
    (cutPrepared c why p).chains.get d = if d = c then cutDecision why (p.chains.get c) else p.chains.get d := by
  by_cases h : d = c <;> simp [cutPrepared, h]

/-- One chain's decision after one chain of a slot prepared at the instant of a trip. -/
theorem tripDecided_chains (atTrip : Bool) (s : State) (d c : Chain) (q : Prepared) :
    (tripDecided atTrip s d q).chains.get c =
      if c = d ∧ cutThisInstant atTrip s d = true then cutDecision (s.slot.inForce.get d).reason (q.chains.get c)
      else q.chains.get c := by
  unfold tripDecided
  by_cases ht : cutThisInstant atTrip s d = true
  · by_cases hc : c = d <;> simp [cutPrepared_chains, ht, hc]
  · simp [ht]

/-- A slot prepared at the instant of a trip, chain by chain: cut where the evaluation of this instant has cut the chain. -/
theorem tripsDecided_chains (atTrip : Bool) (s : State) (p : Prepared) (c : Chain) :
    (tripsDecided atTrip s p).chains.get c =
      if cutThisInstant atTrip s c then cutDecision (s.slot.inForce.get c).reason (p.chains.get c)
      else p.chains.get c := by
  simp only [tripsDecided, tripDecided_chains]
  fin_cases c <;> simp

/-- The budget used of a slot prepared at the instant of a trip: less the currents of the chains cut. -/
theorem tripsDecided_budgetUsed (atTrip : Bool) (s : State) (p : Prepared) :
    let freed (c : Chain) : Nat := if cutThisInstant atTrip s c then (p.chains.get c).verdict.current else 0
    (tripsDecided atTrip s p).budgetUsed = p.budgetUsed - (freed 0 + freed 1 + freed 2 + freed 3) := by
  have one (d : Chain) (q : Prepared) : (tripDecided atTrip s d q).budgetUsed =
      q.budgetUsed - if cutThisInstant atTrip s d then (q.chains.get d).verdict.current else 0 := by
    unfold tripDecided
    split <;> simp [cutPrepared]
  simp [tripsDecided, one, tripDecided_chains, Nat.sub_sub, Nat.add_assoc]

/-- What else a slot prepared at the instant of a trip keeps. -/
theorem tripsDecided_rest (atTrip : Bool) (s : State) (p : Prepared) :
    tripsDecided atTrip s p =
      { p with chains := (tripsDecided atTrip s p).chains, budgetUsed := (tripsDecided atTrip s p).budgetUsed } := by
  have one (d : Chain) (q : Prepared) : tripDecided atTrip s d q =
      { q with chains := (tripDecided atTrip s d q).chains, budgetUsed := (tripDecided atTrip s d q).budgetUsed } := by
    unfold tripDecided
    split <;> rfl
  unfold tripsDecided
  rw [one 3, one 2, one 1, one 0]

/-- A SLOTP that no trip of its own instant precedes prepares the slot as it is decided. -/
@[simp] theorem tripsDecided_false (s : State) (p : Prepared) : tripsDecided false s p = p := by
  simp [tripsDecided, tripDecided, cutThisInstant]

/-- After all the synchronisations the decision of a chain whose request rose is cut; every other chain's is as before. -/
theorem syncCuts_decision (s : State) (c : Chain) {p : Prepared} (h : s.slot.prepared = some p) :
    ∃ q, (syncCuts s).slot.prepared = some q ∧ q.chains.get c =
      if cutRises s c then cutDecision (cutReason s c) (p.chains.get c) else p.chains.get c := by
  have one (t : State) (d : Chain) (u : Prepared) (hu : t.slot.prepared = some u) :
      ∃ q, (syncCut t d).slot.prepared = some q ∧ q.chains.get c =
        if c = d ∧ cutRises t d = true then cutDecision (cutReason t d) (u.chains.get c) else u.chains.get c := by
    rw [syncCut_prepared, hu]
    by_cases hr : cutRises t d = true
    · refine ⟨_, by rw [if_pos hr]; rfl, ?_⟩
      by_cases hc : c = d <;> simp [cutPrepared_chains, hr, hc]
    · exact ⟨u, by rw [if_neg hr], by simp [hr]⟩
  obtain ⟨q0, h0, e0⟩ := one _ 0 p h
  obtain ⟨q1, h1, e1⟩ := one _ 1 q0 h0
  obtain ⟨q2, h2, e2⟩ := one _ 2 q1 h1
  obtain ⟨q3, h3, e3⟩ := one _ 3 q2 h2
  refine ⟨q3, by simpa only [syncCuts, assertMutes, mapDrive_slot] using h3, ?_⟩
  rw [e3, e2, e1, e0]
  simp only [syncCut_reason]
  fin_cases c <;> simp [syncCut_rises_other]

/-- Where one chain's request alone may rise, the pending slot is cut for that chain or is as before. -/
theorem syncCuts_prepared_of_one (s : State) (c : Chain) (h : ∀ d, d ≠ c → cutRises s d = false) :
    (syncCuts s).slot.prepared =
      if cutRises s c then s.slot.prepared.map (cutPrepared c (cutReason s c)) else s.slot.prepared := by
  simp only [syncCuts, assertMutes, mapDrive_slot, syncCut_prepared, syncCut_reason]
  fin_cases c <;> simp [syncCut_rises_other, h]

/-- What the synchronisations leave of the Slot Engine. -/
theorem syncCuts_slot (s : State) :
    (syncCuts s).slot =
      { s.slot with
        inForce := (syncCuts s).slot.inForce, prepared := (syncCuts s).slot.prepared
        justCut := (syncCuts s).slot.justCut } := by
  have h : ∀ (t : State) c, (syncCut t c).slot =
      { t.slot with
        inForce := (syncCut t c).slot.inForce, prepared := (syncCut t c).slot.prepared
        justCut := (syncCut t c).slot.justCut } := by
    intro t c
    rw [syncCut_slot]
    split <;> rfl
  simp only [syncCuts, assertMutes, mapDrive_slot]
  rw [h _ 3, h _ 2, h _ 1, h _ 0]

/-- The lines after the synchronisations: asserted where a reason stands, otherwise as before. -/
theorem syncCuts_drive (s : State) :
    (syncCuts s).drive = { s.drive with chains := s.drive.chains.mapIdx fun c r =>
      { r with mute := r.mute || muteReason (syncCut (syncCut (syncCut (syncCut s 0) 1) 2) 3) c } } := by
  have h : (syncCut (syncCut (syncCut (syncCut s 0) 1) 2) 3).drive = s.drive := by
    rw [syncCut_frame _ 3, syncCut_frame _ 2, syncCut_frame _ 1, syncCut_frame _ 0]
  simp only [syncCuts, assertMutes, mapDrive_drive, h]

/-! ### Latches -/

theorem recordLatchIf_entries (b : Bool) (f : FaultRecord) (c : Chain) (s : State) :
    (recordLatchIf b f c s).supervisor.entries = s.supervisor.entries := by
  unfold recordLatchIf
  split <;> rfl

theorem recordLatchIf_cutRequest (b : Bool) (f : FaultRecord) (c : Chain) (s : State) :
    (recordLatchIf b f c s).supervisor.cutRequest = s.supervisor.cutRequest := by
  unfold recordLatchIf
  split <;> rfl

theorem recordLatches_entries (before s : State) :
    (recordLatches before s).supervisor.entries = s.supervisor.entries := by
  simp only [recordLatches, recordLatchIf_entries]

theorem recordLatches_cutRequest (before s : State) :
    (recordLatches before s).supervisor.cutRequest = s.supervisor.cutRequest := by
  simp only [recordLatches, recordLatchIf_cutRequest]

/-! ### The evaluation -/

theorem evaluateTable_entries (s : State) : (evaluateTable s).supervisor.entries = evaluatedEntries s := by
  simp only [evaluateTable]
  rw [setCauseIf_frame]
  simp only [syncCuts_supervisor, recordLatches_entries, withEntries]

theorem evaluateTable_cutRequest (s : State) :
    (evaluateTable s).supervisor.cutRequest = .ofFn (cutWanted (evaluatedEntries s)) := by
  simp only [evaluateTable]
  rw [setCauseIf_frame]
  simp only [syncCuts_supervisor, recordLatches_entries, withEntries]

theorem replaceEntry_entries (id : Fin 19) (e : CondEntry) (s : State) :
    (replaceEntry id e s).supervisor.entries = s.supervisor.entries.set id.val e id.isLt := by
  simp only [replaceEntry]
  rw [setCauseIf_frame]
  simp only [syncCuts_supervisor, withEntries]

theorem replaceEntry_cutRequest (id : Fin 19) (e : CondEntry) (s : State) :
    (replaceEntry id e s).supervisor.cutRequest =
      .ofFn (cutWanted (s.supervisor.entries.set id.val e id.isLt)) := by
  simp only [replaceEntry]
  rw [setCauseIf_frame]
  simp only [syncCuts_supervisor, withEntries]

/-! ### Whole results -/

/-- A move that only lets cut requests fall: the entries and the cut requests follow, nothing is cut and
nothing muted. -/
theorem syncCuts_of_falling (s : State) (es : Vector CondEntry 19) (hm : MuteLaw s)
    (hr : ∀ c, cutWanted es c = true → s.supervisor.cutRequest.get c = true) :
    syncCuts (withEntries es s) = { s with
      supervisor := { s.supervisor with entries := es, cutRequest := .ofFn (cutWanted es) } } := by
  have hn : ∀ c, cutRises (withEntries es s) c = false := by
    intro c
    unfold cutRises
    have : (withEntries es s).supervisor.cutRequest = s.supervisor.cutRequest := rfl
    rw [this]
    have : (withEntries es s).supervisor.entries = es := rfl
    rw [this]
    by_cases h : cutWanted es c = true
    · simp [hr c h]
    · simp [h]
  have hno : ∀ (t : State) (c : Chain), cutRises t c = false → syncCut t c = { t with
      supervisor := { t.supervisor with
        cutRequest := t.supervisor.cutRequest.set c (cutWanted t.supervisor.entries c) } } := by
    intro t c h
    unfold syncCut
    unfold cutRises at h
    dsimp only
    rw [h]; rfl
  have h0 := hno _ 0 (hn 0)
  have h1 := hno (syncCut (withEntries es s) 0) 1 (by rw [syncCut_rises_other _ _ _ (by decide)]; exact hn 1)
  have h2 := hno (syncCut (syncCut (withEntries es s) 0) 1) 2 (by
    rw [syncCut_rises_other _ _ _ (by decide), syncCut_rises_other _ _ _ (by decide)]
    exact hn 2)
  have h3 := hno (syncCut (syncCut (syncCut (withEntries es s) 0) 1) 2) 3 (by
    rw [syncCut_rises_other _ _ _ (by decide), syncCut_rises_other _ _ _ (by decide),
      syncCut_rises_other _ _ _ (by decide)]
    exact hn 3)
  have hall : syncCut (syncCut (syncCut (syncCut (withEntries es s) 0) 1) 2) 3 = { s with
      supervisor := { s.supervisor with entries := es, cutRequest := .ofFn (cutWanted es) } } := by
    rw [h3, h2, h1, h0]; rfl
  unfold syncCuts
  rw [hall]
  unfold assertMutes mapDrive
  have : (s.drive.chains.mapIdx fun c r => { r with
      mute := r.mute || muteReason { s with
        supervisor := { s.supervisor with entries := es, cutRequest := .ofFn (cutWanted es) } } c }) = s.drive.chains := by
    apply PerChain.ext_get
    intro c
    simp only [PerChain.get_mapIdx]
    have := hm c
    by_cases hmr : muteReason { s with
        supervisor := { s.supervisor with entries := es, cutRequest := .ofFn (cutWanted es) } } c = true
    · have : (s.drive.chains.get c).mute = true := by
        apply this
        simp only [muteReason, preparedMuted, Bool.or_eq_true, decide_eq_true_eq, PerChain.get_ofFn] at hmr
        have := hr c
        revert hmr
        cases hp : s.slot.prepared <;> simp <;> tauto
      cases hx : s.drive.chains.get c; simp_all
    · simp [hmr]
  dsimp only
  rw [this]

/-- Which cut requests one entry's replacement leaves. -/
theorem cutWanted_set (s : State) (id : Fin 19) (e : CondEntry) (c : Chain)  :
    cutWanted (s.supervisor.entries.set id.val e id.isLt) c =
      ((if id = chainEntry c 0 then e.state.acting else (condState s (chainEntry c 0)).acting) ||
        (if id = chainEntry c 2 then decide (e.state = .latched) else decide (condState s (chainEntry c 2) =
            .latched))) := by
  unfold cutWanted condState
  have h : ∀ k : Fin 19, (s.supervisor.entries.set id.val e id.isLt)[k] = if id =
      k then e else s.supervisor.entries[k] := by
    intro k
    simp only [Fin.getElem_fin, Vector.getElem_set, Fin.ext_iff]
  rw [h, h]
  split <;> split <;> rfl

/-- All a release does to a latched chain. -/
theorem releaseLatch_latched (s : State) (c : Chain) (hl : condState s (chainEntry c 2) = .latched) (hc : CutLaw s)
    (hm : MuteLaw s) :
    releaseLatch c s = { s with
      supervisor := { s.supervisor with
        entries := s.supervisor.entries.set (chainEntry c 2).val { s.supervisor.entries[chainEntry c 2] with
          state := .clear
          elapsed := 0 } (chainEntry c 2).isLt
        cutRequest := s.supervisor.cutRequest.set c (condState s (chainEntry c 0)).acting
        faults := s.supervisor.faults.set c { s.supervisor.faults.get c with released := true } }
      port := { s.port with ncause := s.port.ncause ||| 2 }
      xm := memStore s.xm (faultAddr c) (faultBytes { s.supervisor.faults.get c with released := true }) } := by
  unfold releaseLatch
  dsimp only
  generalize hs' : putFault c { s with
    supervisor := { s.supervisor with
      faults := s.supervisor.faults.set c { s.supervisor.faults.get c with released := true } } } = s'
  have hs2 : s' = { s with
      supervisor := { s.supervisor with
        faults := s.supervisor.faults.set c { s.supervisor.faults.get c with released := true } }
      xm := memStore s.xm (faultAddr c) (faultBytes { s.supervisor.faults.get c with released := true }) } := by
    rw [← hs']; unfold putFault partWrite; simp
  unfold replaceEntry
  have hwant : ∀ d, cutWanted
      (s.supervisor.entries.set (chainEntry c 2).val (clearedEntry s.supervisor.entries[chainEntry c 2])
        (chainEntry c 2).isLt) d =
        (s.supervisor.cutRequest.set c (condState s (chainEntry c 0)).acting).get d := by
    intro d
    rw [cutWanted_set, PerChain.get_set]
    have h02 : ∀ d, chainEntry c 2 ≠ chainEntry d 0 := by
      intro d h
      have := congrArg Fin.val h
      simp [chainEntry] at this
      omega
    rw [if_neg (h02 d)]
    by_cases hd : d = c
    · subst hd; simp [clearedEntry]
    · have h22 : chainEntry c 2 ≠ chainEntry d 2 := by
        intro h
        have := congrArg Fin.val h
        simp [chainEntry] at this
        exact hd (Fin.ext (by omega))
      rw [if_neg h22, if_neg hd, hc.2.2 d]
  have hq := syncCuts_of_falling s'
    (s'.supervisor.entries.set (chainEntry c 2).val (clearedEntry s.supervisor.entries[chainEntry c 2])
        (chainEntry c 2).isLt)
    (by rw [hs2]; exact hm) (by
      intro d hd
      have e : s'.supervisor.entries = s.supervisor.entries := by rw [hs2]
      rw [e, hwant, PerChain.get_set] at hd
      have e2 : s'.supervisor.cutRequest = s.supervisor.cutRequest := by rw [hs2]
      rw [e2]
      split at hd
      · next h => subst h; rw [hc.2.2]; simp [hd]
      · exact hd)
  have e : s'.supervisor.entries = s.supervisor.entries := by rw [hs2]
  have e3 : PerChain.ofFn (cutWanted
      (s.supervisor.entries.set (chainEntry c 2).val (clearedEntry s.supervisor.entries[chainEntry c 2])
        (chainEntry c 2).isLt)) =
        s.supervisor.cutRequest.set c (condState s (chainEntry c 0)).acting := by
    apply PerChain.ext_get; intro d; rw [PerChain.get_ofFn, hwant]
  rw [e] at hq ⊢
  rw [e3] at hq
  rw [hq]
  have hnot : noticed (condState s' (chainEntry c 2)) (clearedEntry s.supervisor.entries[chainEntry c 2]).state =
      true := by
    have : condState s' (chainEntry c 2) = .latched := by rw [← hl]; unfold condState; rw [e]
    rw [this]; rfl
  rw [hnot, hs2]
  rfl

theorem allSensorsLost_iff (u : State) : allSensorsLost u = true ↔ ∀ d, condState u (chainEntry d 3) = .tripped := by
  unfold allSensorsLost
  simp only [Bool.and_eq_true, decide_eq_true_eq]
  constructor
  · rintro ⟨⟨⟨a, b⟩, c⟩, d⟩ e
    match e with
    | 0 => exact a
    | 1 => exact b
    | 2 => exact c
    | 3 => exact d
  · intro h; exact ⟨⟨⟨h 0, h 1⟩, h 2⟩, h 3⟩

/-- An evaluation that asks for no stop is the evaluation of the table. -/
theorem evaluate_of_no_stop (s : State) (h : ¬((s.governor.state = .idle ∨ s.governor.state = .running) ∧ ∀ d,
    condState (evaluateTable s) (chainEntry d 3) = .tripped)) :
    evaluate s = evaluateTable s := by
  unfold evaluate
  dsimp only
  split
  · next h1 =>
    rw [allSensorsLost_iff] at h1
    have hg : (evaluateTable s).governor = s.governor := by rw [evaluateTable_frame]
    unfold requestStop
    rw [if_neg]
    rw [hg]; tauto
  · rfl

theorem evaluate_condState (s : State) (id : Fin 19) : condState (evaluate s) id = condState (evaluateTable s) id :=
    by
  unfold evaluate condState
  dsimp only
  split
  · rw [requestStop_frame]
  · rfl

/-- What the table's evaluation does to what is in force. -/
theorem evaluateTable_inForce (s : State) (c : Chain) :
    (evaluateTable s).slot.inForce.get c =
      if (evaluateTable s).supervisor.cutRequest.get c = true ∧ s.supervisor.cutRequest.get c = false then
        ⟨.muted, if condState (evaluateTable s) (chainEntry c 2) = .latched ∧ (!(condState (evaluateTable s)
            (chainEntry c 0)).acting || Config.latchRaisesFirst s.thermal.steps c) then .lock else .cut⟩
      else s.slot.inForce.get c := by
  have hs : (evaluateTable s).slot = (syncCuts (recordLatches s (withEntries (evaluatedEntries s) (forgetCuts s)))).slot := by
    simp only [evaluateTable]; rw [setCauseIf_frame]
  rw [hs, syncCuts_inForce]
  have hc : (evaluateTable s).supervisor.cutRequest.get c = cutWanted (evaluatedEntries s) c := by
    rw [evaluateTable_cutRequest]; simp
  rw [hc]
  have hr : cutRises (recordLatches s (withEntries (evaluatedEntries s) (forgetCuts s))) c = (cutWanted (evaluatedEntries s)
      c && !s.supervisor.cutRequest.get c) := by
    unfold cutRises; rw [recordLatches_entries, recordLatches_cutRequest]; rfl
  rw [hr]
  have hreason : cutReason (recordLatches s (withEntries (evaluatedEntries s) (forgetCuts s))) c = if condState (evaluateTable s)
      (chainEntry c 2) = .latched ∧ (!(condState (evaluateTable s)
      (chainEntry c 0)).acting || Config.latchRaisesFirst s.thermal.steps c) then .lock else .cut := by
    unfold cutReason condState
    rw [recordLatches_entries, evaluateTable_entries, recordLatches_frame]
    rfl
  rw [hreason]
  have hsl : (recordLatches s (withEntries (evaluatedEntries s) (forgetCuts s))).slot = { s.slot with justCut := .fill false } := by rw [recordLatches_frame,
      withEntries_slot, forgetCuts_slot]
  rw [hsl]
  simp

/-- After an evaluation exactly the chains whose cut request it raised in RUNNING are marked as just cut. -/
theorem evaluateTable_justCut (s : State) (c : Chain) :
    (evaluateTable s).slot.justCut.get c =
      ((evaluateTable s).supervisor.cutRequest.get c && !s.supervisor.cutRequest.get c &&
        decide (s.governor.state = .running)) := by
  have hs : (evaluateTable s).slot =
      (syncCuts (recordLatches s (withEntries (evaluatedEntries s) (forgetCuts s)))).slot := by
    simp only [evaluateTable]; rw [setCauseIf_frame]
  have hr : cutRises (recordLatches s (withEntries (evaluatedEntries s) (forgetCuts s))) c =
      (cutWanted (evaluatedEntries s) c && !s.supervisor.cutRequest.get c) := by
    unfold cutRises; rw [recordLatches_entries, recordLatches_cutRequest]; rfl
  rw [hs, syncCuts_justCut, hr, evaluateTable_cutRequest, recordLatches_frame, PerChain.get_ofFn]
  split
  · next h => rw [h, Bool.true_and]; rfl
  · next h =>
    rw [Bool.not_eq_true] at h
    simp only [withEntries_slot, forgetCuts_slot, h, Bool.false_and]
    fin_cases c <;> rfl

end Sys2Proof.Machine
end

