-- ==== Sys2Proof/WellFormed.lean ====
section
/-! DEFINITION. Well-formedness of a command. The operand types hold every other range, so what remains is the check
the Memory Port itself makes of a transaction: its two address bytes are complete when CS_N rises (R179). -/

namespace Sys2Proof

/-- A read stretch is complete when its two address bytes arrived. -/
def ReadPhase.complete : ReadPhase → Bool
  | .start address _ _ => address.length == 2
  | .more _ _ => true

/-- R179: "A transaction [...] whose address is incomplete when CS_N rises, is ignored". -/
def Instr.wellFormed : Instr → Bool
  | .spiWrite bytes => decide (2 ≤ bytes.length)
  | .spiQuadWrite bytes => decide (2 ≤ bytes.length)
  | .spiRead phase => phase.complete
  | .spiQuadRead phase => phase.complete
  | .powerOnReset => true
  | .resetN => true
  | .resetRelease _ => true
  | .slotp => true
  | .slota => true
  | .driveLinkCut _ => true
  | .driveLinkCutClear _ => true
  | .transferCompletion _ => true
  | .thermalStep => true
  | .transmitWatchExpiry => true
  | .enterStopped _ => true
  | .conditionEvaluation => true
  | .conditionTrip _ => true
  | .conditionClear _ => true
  | .scanCompletion _ => true
  | .settlingEnd _ => true
  | .initComplete _ => true
  | .directiveStepEvent _ => true
  | .nudge => true
  | .slotSetup _ _ _ _ _ => true
  | .chainSetup _ _ _ _ _ => true
  | .conditionSetup _ _ _ _ _ _ _ => true
  | .supplySetup _ _ => true
  | .sensorSetup _ _ _ _ => true
  | .profileLoad _ _ => true
  | .profileLoadCompletion => true
  | .profileDrop _ _ => true
  | .calibrate _ => true
  | .calibrateCompletion _ => true
  | .selftest _ => true
  | .selftestCompletion _ => true
  | .captureStart _ _ _ _ _ => true
  | .captureStop _ => true
  | .releaseLatch _ _ => true
  | .pause _ _ => true
  | .pauseCompletion => true
  | .clearPending _ => true
  | .captureStepEvent _ => true
  | .burstPreparation => true
  | .burstCompletion => true
  | .statusBoardPublication => true
  | .runWritten1 => true
  | .runWritten0 => true
  | .warmReset => true
  | .ncauseClear _ => true
  | .stoppedClear => true
  | .nmask _ => true
  | .registerWrite _ _ => true

end Sys2Proof
end

