-- ==== Sys2Proof/Tests/Slice0.lean ====
section
/-! SUPPORT. Tests on fixed values: the well-formedness check, the worked examples of the manual, one step per command, and
for every statement with hypotheses a state and operands that meet them. The expected values of a worked example are the
manual's; the others are worked out by hand from the rule that the test names. -/

namespace Sys2Proof.Tests

open Sys2Proof Sys2Proof.Machine

-- One theorem after another: each would otherwise take a thread of its own.
set_option Elab.async false

/-! ### States to test on -/

/-- The state after a command. -/
def after (c : Instr) (s : State) : State :=
  match exec c s with
  | .next t => t
  | .fault _ => s
  | .refused _ => s

/-- A governor state other than INIT, with a table published. -/
def inState (g : GovState) (s : State) : State :=
  { s with
    governor := { s.governor with state := g, run := decide (g = .running), initScans := 3 }
    sensors := { s.sensors with valid := true } }

def idle : State := inState .idle State.reset
def running : State := inState .running State.reset
def stopped : State := inState .stopped { State.reset with port := ⟨32, 0, none, [], none⟩ }

/-- A profile of a constant current and a D curve that starts at `lo` and ends with the five points given. -/
def profile (r k current lo : Nat) (top : Vector Nat 5) : ProfileImage :=
  ⟨r, k, Vector.replicate 25 current, Vector.ofFn fun i : Fin 25 => if h : 20 ≤ i.val then top[i.val - 20] else lo⟩

/-- Profile 3 of the worked cases (section 2.4, "Lookup example"). -/
def profile3 : ProfileImage := profile 40 2570 500 310 #v[1500, 1800, 2150, 2600, 3150]

/-- Profile 5 of the worked example "one prepare at the limits". -/
def profile5 : ProfileImage := profile 30 4000 500 280 #v[1400, 1700, 2000, 2500, 3000]

/-- A state with profiles 3 and 5 loaded. -/
def loaded (s : State) : State :=
  { s with store := ⟨(s.store.slots.set 3 (some profile3)).set 5 (some profile5), none⟩ }

/-- An entry put into a state of the condition table, with an elapsed count. -/
def withCond (id : Fin 19) (x : CondState) (n : Nat) (s : State) : State :=
  { s with supervisor := { s.supervisor with
      entries := s.supervisor.entries.set id.val { s.supervisor.entries[id] with state := x, elapsed := n } id.isLt } }

/-- Bytes put into exchange memory. -/
def withBytes (a : Nat) (bs : List Byte) (s : State) : State :=
  { s with xm := memStore s.xm a bs }

/-- A chain record of an intent: active, class 0. -/
def wants (profile : Nat) (power : Int) : List Byte :=
  [1, byteOf profile] ++ le16 (i16 power)

/-- An intent entry for slot n with both tags equal to it. -/
def withIntent (n : Half) (records : List Byte) (s : State) : State :=
  withBytes (intentAddr n) (le16 n ++ (records ++ zeros 16).take 16 ++ le16 n) s

/-- What an ON chain carries: grant 96 for a request of 104 on profile 3. -/
def on96 : OnRecord := ⟨96, 8, 96, 104, false, 3, 0, 500, 2150, 40, 2570⟩

/-- A chain ON in force at 96. -/
def onAir (c : Chain) (s : State) : State :=
  { s with slot := { s.slot with inForce := s.slot.inForce.set c ⟨.on on96, .thermal⟩ } }

/-- The slot setup of the worked sequence "misses, a re-take and an orphan", chain 0 ON in force. -/
def slot40 : State :=
  onAir 0 (loaded { running with slot := { running.slot with n := 40 } })

/-- A pending slot: chain 0 ON at 96, chain 1 OFF, the others MUTED. -/
def pending96 : Prepared :=
  ⟨40, .taken, 0, 3000, 500,
    ⟨⟨.on on96, .thermal, 6080⟩, ⟨.off, .off, 6080⟩, ⟨.muted none none, .noProfile, 6080⟩,
      ⟨.muted none none, .cut, 6080⟩⟩⟩

/-- A slot pending, with chain 0's drive record given. -/
def prepared (r : DriveRecord) : State :=
  { slot40 with
    slot := { slot40.slot with prepared := some pending96 }
    drive := { slot40.drive with chains := slot40.drive.chains.set 0 r } }

/-- A drive record by its fate, counts and cut. -/
def record (fate : WordFate) (failures successes : Nat) (cut : Bool) : DriveRecord :=
  ⟨none, none, ⟨true, 8⟩, fate, failures, successes, cut, true⟩

/-- A thermal record of chain 0. -/
def withThermal (t : ThermalRecord) (s : State) : State :=
  { s with thermal := { s.thermal with chains := s.thermal.chains.set 0 t } }

/-- A reading of a channel. -/
def withReading (ch : Fin 11) (r : Reading) (s : State) : State :=
  { s with sensors := { s.sensors with readings := s.sensors.readings.set ch.val r ch.isLt } }

/-- A directive active. -/
def active (a : ActiveDirective) (s : State) : State :=
  { s with
    directives := ⟨s.directives.cursor, some a⟩
    xm := memStore s.xm (entryAddr s.directives.cursor) [2] }

/-- Raw codes of a scan, all 100 but two. -/
def scanOf (tm1 vb : BitVec 12) : Vector (BitVec 12) 11 :=
  ((Vector.replicate 11 100).set 1 tm1).set 5 vb

/-- The state of a directive entry with its result code. -/
def shows (s : State) (e : BitVec 5) : Byte × Byte :=
  (entryState s.xm e, memRead s.xm (entryAddr e + 3))

/-- `n` entries from entry `first` on, posted with a kind. -/
def posting (kind : Byte) (first n : Nat) : State :=
  (List.range n).foldl (fun s i => withBytes (0x0800 + 32 * (first + i)) [1, kind] s) idle

/-! ### Well-formedness -/

theorem test_wf_write_without_address : (Instr.spiWrite [0x40]).wellFormed = false := by decide
theorem test_wf_quad_write_without_address : (Instr.spiQuadWrite []).wellFormed = false := by decide
theorem test_wf_read_without_address : (Instr.spiRead (.start [0x40] 2 true)).wellFormed = false := by decide
theorem test_wf_quad_read_without_address : (Instr.spiQuadRead (.start [] 0 true)).wellFormed = false := by decide
theorem test_wf_accepts : (Instr.spiWrite [0x40, 0x02]).wellFormed = true ∧
    (Instr.spiRead (.start [0x00, 0x40] 448 true)).wellFormed = true ∧
    (Instr.spiQuadRead (.more 2 true)).wellFormed = true := by decide

/-! ### Reset (R168, R189) -/

/-- The board that State.reset's memory holds is the one that the publication of the reset writes (R189). -/
theorem test_reset_board : memBytes State.reset.xm 0x0040 448 = boardBytes State.reset := by decide +kernel

theorem test_power_on_held : (after .powerOnReset running).pins = ⟨true, false⟩ ∧
    after .slotp (after .powerOnReset running) = after .powerOnReset running := by decide +kernel

theorem test_reset_n_keeps_step_counter :
    let s := { running with thermal := { running.thermal with steps := 7 } }
    (after .resetN s).thermal.steps = 7 ∧ (after .resetN s).pins = ⟨false, true⟩ ∧
      memRead (after .resetN s).xm 8 = 7 ∧ memRead (after .resetN s).xm 0x01FC = 7 := by decide +kernel

theorem test_release : (after (.resetRelease .resetN) (after .resetN running)).pins = ⟨false, false⟩ := by decide +kernel

/-- R102, R119: a warm reset keeps a latch, and returns any other entry to CLEAR. -/
theorem test_warm_reset_keeps_latch :
    let t := after .warmReset (withCond 2 .latched 0 (withCond 16 .tripped 0 running))
    condState t 2 = .latched ∧ condState t 16 = .clear ∧ t.slot.inForce.get 0 = ⟨.muted, .lock⟩ ∧
      t.slot.inForce.get 1 = ⟨.muted, .governor⟩ := by decide +kernel

/-! ### Worked examples: the curves and the ceiling (chapter 2) -/

/-- "D(83) = 1500 + (300 × 3 + 4) div 8 = 1613". -/
theorem test_lookup : curveAt profile3.dissipations 83 = 1613 ∧ curveAt profile3.dissipations 84 = 1650 ∧
    curveAt profile3.dissipations 85 = 1688 ∧ curveAt profile3.dissipations 92 = 1975 := by decide +kernel

/-- "a chain converging on its soft limit": step 1 and step 2. -/
theorem test_ceiling : allowedTarget 4160 4100 2570 = 5630 ∧ dissipationAllowance 5630 40 = 2199 ∧
    thermalCeiling profile3.dissipations 2199 = some 96 ∧ allowedTarget 4160 4155 2570 = 4282 ∧
    dissipationAllowance 4282 40 = 1672 ∧ thermalCeiling profile3.dissipations 1672 = some 84 := by decide +kernel

/-- The state of "one prepare at the limits", slot 300. -/
def limits : State :=
  let s := withCond 16 .tripped 0 (withCond 9 .tripped 0 (withCond 3 .tripped 0 (loaded running)))
  withIntent 300 (wants 3 104 ++ wants 5 140 ++ wants 5 112 ++ wants 9 96)
    { s with
      slot := { s.slot with n := 300 }
      config := s.config.set 2 ⟨8000, -40, 6080⟩
      supply := ⟨8000, 8000⟩
      thermal := ⟨0, ⟨⟨0, none, 3000, 0, 6080, true, 9080⟩, ⟨0, none, 1000, 0, 3200, false, 4200⟩,
        ⟨0, none, 200, 0, 8500, false, 8700⟩, ⟨0, none, 0, 0, 3500, false, 3500⟩⟩⟩ }

theorem test_slotp_at_the_limits :
    (after .slotp limits).slot.prepared.map (fun p => p.chains.toList.map fun d => decidedOutcome d .ok) =
      some [⟨.on, .thermal, some 40, 64, .ok, some 40, 9080, some 104⟩,
        ⟨.on, .protection, some 72, 40, .ok, some 120, 4200, some 112⟩,
        ⟨.muted, .attenRange, none, 0, .ok, some (-40), 8700, some 112⟩,
        ⟨.muted, .noProfile, none, 0, .ok, none, 3500, none⟩] ∧
    (after .slotp limits).slot.lastCeiling = ⟨some 40, some 120, some (-40), none⟩ := by decide +kernel

/-! ### Worked allocations (chapter 3) -/

/-- The I curve of profile 6. -/
def currents6 : Vector Nat 25 :=
  #v[150, 160, 170, 180, 190, 200, 215, 230, 250, 270, 290, 320, 350, 380, 410, 440, 470, 500, 530, 565, 600, 700, 850, 1100,
    1400]

def image6 : ProfileImage := ⟨40, 2570, currents6, Vector.replicate 25 0⟩
def flatImage (i : Nat) : ProfileImage := ⟨40, 2570, Vector.replicate 25 i, Vector.replicate 25 0⟩

def candidates : List Candidate :=
  [⟨0, 0, 1, 100, false, 96, 96, flatImage 900⟩, ⟨1, 1, 6, 104, false, 120, 104, image6⟩,
    ⟨2, 1, 6, 100, false, 92, 92, image6⟩]

def candidates4 : List Candidate := candidates ++ [⟨3, 2, 2, 80, false, 120, 80, flatImage 200⟩]

theorem test_one_class_backed_off : (allocate 2400 candidates).map (fun g => (g.1.chain, g.2)) =
      [(0, some 96), (2, some 84), (1, some 96)] ∧ usedBy (allocate 2400 candidates) = 2400 := by decide +kernel

theorem test_the_budget_falls :
    (allocate 1500 candidates4).map (fun g => (g.1.chain, g.2)) =
      [(0, some 96), (2, some (-4)), (1, some 8), (3, none)] ∧ usedBy (allocate 1500 candidates4) = 1500 ∧
    (allocate 1400 candidates4).map (fun g => (g.1.chain, g.2)) =
      [(0, some 96), (2, none), (1, some 56), (3, none)] ∧ usedBy (allocate 1400 candidates4) = 1400 := by decide +kernel

/-! ### Slots: "misses, a re-take and an orphan" (chapter 1) -/

/-- Step 3: tags 25, 25 at N 41 are missed; the chain is held on its basis. -/
theorem test_slotp_held :
    let s := after .slotp (withIntent 25 (wants 3 104) { slot40 with slot := { slot40.slot with n := 41 } })
    s.slot.missCount = 1 ∧ s.slot.prepared.map (·.status) = some .held ∧
      s.slot.prepared.map (fun p => (p.chains.get 0).verdict.clamped) = some (some 104) := by decide +kernel

/-- Step 2: outcome 40, charge 17,200, N 41. -/
theorem test_slota_charges :
    let t := after .slota (prepared (record .acknowledged 0 0 false))
    (t.thermal.chains.get 0).energy = 17200 ∧ t.slot.n = 41 ∧ memRead16 t.xm 2 = 41 ∧ memRead16 t.xm 4 = 40 ∧
      memBytes t.xm (0x0400 + 64 * 8) 4 = [40, 0, 1, 0] ∧ (t.drive.chains.get 0).mute = false ∧
      (t.drive.chains.get 2).mute = true := by decide +kernel

/-- Step 16: an orphan activation charges again and is UNPREPARED. -/
theorem test_slota_orphan :
    let t := after .slota slot40
    (t.thermal.chains.get 0).energy = 17200 ∧ memRead t.xm (0x0400 + 64 * 8 + 2) = 4 ∧ t.slot.n = 41 := by decide +kernel

/-! ### The drive link: "a module losing its link" (chapter 8) -/

/-- Slot 504: the third failure cuts, keeps the record in force and asserts the line. -/
theorem test_drive_link_cut :
    let t := after (.driveLinkCut 0) (prepared (record .outstanding 2 0 false))
    (t.drive.chains.get 0).cut = true ∧ (t.drive.chains.get 0).failures = 3 ∧ (t.drive.chains.get 0).mute = true ∧
      (t.slot.inForce.get 0).force.grant = some 96 ∧ (t.thermal.chains.get 0).energy = 17200 := by decide +kernel

/-- Slot 513: the eighth success clears the cut. -/
theorem test_drive_link_cut_clear :
    let t := after (.driveLinkCutClear 0) (prepared (record .acknowledged 0 7 true))
    (t.drive.chains.get 0).cut = false ∧ (t.drive.chains.get 0).successes = 0 := by decide +kernel

/-- A word in transfer of chain 0. -/
def inFlight (retry : Bool) (s : State) : State :=
  { s with drive := ⟨s.drive.chains.set 0 (record .outstanding 0 0 false), some ⟨0, ⟨true, 16⟩, retry, true⟩⟩ }

/-- Slot 501: a NACK, then the retry is acknowledged. -/
theorem test_transfer_retry_acknowledged :
    let t := after (.transferCompletion false) (inFlight false running)
    t.drive.transfer = some ⟨0, ⟨true, 16⟩, true, true⟩ ∧
      ((after (.transferCompletion true) t).drive.chains.get 0).lastAck = some ⟨true, 16⟩ ∧
      (after (.transferCompletion true) t).drive.transfer = none := by decide +kernel

/-- Slot 500: NACK and NACK is FAILED. -/
theorem test_transfer_failed :
    ((after (.transferCompletion false) (inFlight true running)).drive.chains.get 0).fate = .failed := by decide +kernel

/-- R146: after RUN is written 0 a word in transfer completes without moving the current result, in IDLE and after RUN 1. -/
theorem test_transfer_after_run_cleared :
    let s := after .runWritten0 (inFlight true running)
    let t := after (.transferCompletion true) s
    (t.drive.chains.get 0).lastAck = some ⟨true, 16⟩ ∧ (t.drive.chains.get 0).fate = .outstanding ∧
      ((after (.transferCompletion false) s).drive.chains.get 0).fate = .outstanding ∧
      ((after (.transferCompletion true) (after .runWritten1 s)).drive.chains.get 0).fate = .outstanding := by decide +kernel

/-! ### Thermal steps: "four steps of chain 1" (chapter 4) -/

/-- Step 1, and step 3 with its negative move. -/
theorem test_thermal_step :
    let t := after .thermalStep (withReading 0 ⟨0, 2000, 3840, false⟩ (withThermal ⟨52356, some ⟨40, 2570⟩, 3000, 0, 3840, false, 6840⟩ idle))
    (t.thermal.chains.get 0) = ⟨4, some ⟨40, 2570⟩, 3047, 1636, 3840, false, 6887⟩ ∧ t.thermal.steps = 1 ∧
      movedRise 3049 0 (some ⟨40, 2570⟩) = 2929 ∧ movedRise 2929 517 (some ⟨40, 2570⟩) = 2834 := by decide +kernel

/-- The watch reaches 0 with a chain ON: the part stops, and with nothing in flight is STOPPED at once (R22, R174, R175). -/
theorem test_transmit_watch_expiry :
    let t := after .transmitWatchExpiry { slot40 with slot := { slot40.slot with watch := 1 } }
    t.governor.state = .stopped ∧ t.governor.reason = .slotFlowLost ∧ t.governor.run = false ∧
      t.port.ncause = 32 ∧ t.slot.inForce.get 0 = ⟨.muted, .governor⟩ ∧ (t.drive.chains.get 0).mute = true := by
  decide +kernel

/-- STOPPING with a word in transfer: a NACK drops it, and the last indication is raised. -/
def stopping : State :=
  let s := inFlight false (inState .stopping State.reset)
  { s with governor := { s.governor with quietSlot := true, quietCapture := true } }

theorem test_enter_stopped :
    let t := after (.enterStopped false) stopping
    t.governor.state = .stopped ∧ t.drive.transfer = none ∧ t.port.ncause = 32 ∧
      (t.drive.chains.get 0).lastAck = none := by decide +kernel

/-! ### Conditions (chapter 6) -/

/-- "the enclosure warms", evaluations 1350 and 1351; TB reads 48.50 C (3104). -/
theorem test_evaluation_dwell :
    let s (n : Nat) := withReading 4 ⟨0, 2000, 3104, false⟩ (withCond 16 .alert n idle)
    condState (after .conditionEvaluation (s 248)) 16 = .alert ∧
      condState (after .conditionEvaluation (s 249)) 16 = .tripped ∧
      (after .conditionEvaluation (s 249)).port.ncause = 2 := by decide +kernel

/-- Evaluation 3850: the hold is met. -/
theorem test_condition_clear :
    let t := after (.conditionClear 16) (withReading 4 ⟨0, 2000, 2765, false⟩ (withCond 16 .holdoff 1249 idle))
    condState t 16 = .clear ∧ t.port.ncause = 2 := by decide +kernel

/-- Chain 2 silent, its word (0, 0) acknowledged, with a detector code of 612, SD at its last count ("a stuck drive"). -/
def stuck : State :=
  let s := withReading 9 ⟨612, 612, 612, false⟩ (withCond 10 .alert 2 idle)
  { s with drive := ⟨s.drive.chains.set 2 { driveAtReset with lastAck := some ⟨false, 0⟩ }, none⟩ }

theorem test_stuck_drive_latches :
    let t := after (.conditionTrip 10) stuck
    condState t 10 = .latched ∧ t.supervisor.latchCount.get 2 = 1 ∧
      (t.supervisor.faults.get 2).condId = 10 ∧ (t.supervisor.faults.get 2).detector = 612 ∧
      t.slot.inForce.get 2 = ⟨.muted, .lock⟩ ∧ memBytes t.xm 0x0C80 2 = [1, 10] ∧ memBytes t.xm 0x0C94 3 = [1, 0, 1] ∧ t.port.ncause = 2 := by decide +kernel

/-- "A RELEASE_LATCH for chain 2, posted while the detector still reads 612, fails [...] and its result data carries 612." -/
theorem test_release_latch :
    let s := after (.conditionTrip 10) stuck
    let t := after (.releaseLatch 2 true) s
    let u := after (.releaseLatch 2 false) (withReading 9 ⟨22, 22, 22, false⟩ s)
    shows t 0 = (4, 4) ∧ memBytes t.xm 0x0818 2 = [0x64, 0x02] ∧ t.port.ncause = 6 ∧
      condState u 10 = .clear ∧ u.supervisor.cutRequest.get 2 = false ∧ memRead u.xm 0x0C80 = 3 := by decide +kernel

theorem test_condition_setup :
    let t := after (.conditionSetup 16 3072 250 3200 1250 72 false) idle
    let u := after (.conditionSetup 16 3072 0 2816 1250 72 false) (withCond 16 .tripped 0 idle)
    shows t 0 = (4, 2) ∧ memRead t.xm 0x0818 = 4 ∧ condState u 16 = .clear ∧ u.port.ncause = 2 := by decide +kernel

/-! ### Sensors: "a calibration during a call" (chapter 7) -/

theorem test_scan_default_pair :
    let t := after (.scanCompletion (scanOf 2000 1660)) idle
    t.sensors.readings[1] = ⟨2000, 2000, 3839, false⟩ ∧ t.sensors.readings[5] = ⟨1660, 1660, 3320, false⟩ := by
  decide +kernel

/-- Step 219: settling ends and the new pair converts. -/
theorem test_settling_end :
    let t := after (.settlingEnd (scanOf 2000 1660))
      { idle with sensors := { idle.sensors with mode := .settling, settleCount := 0, held := true, offset := 10, gain := 4046 } }
    t.sensors.readings[1] = ⟨2000, 1966, 3731, false⟩ ∧ t.sensors.readings[5] = ⟨1660, 1630, 3260, false⟩ ∧
      t.sensors.held = false ∧ t.sensors.mode = .scanning := by decide +kernel

theorem test_init_complete :
    let t := after (.initComplete (scanOf 2000 1660))
      { State.reset with governor := { State.reset.governor with initScans := 2 } }
    t.governor.state = .idle ∧ t.port.ncause = 1 ∧ t.sensors.valid = true := by decide +kernel

theorem test_calibrate :
    let t := after (.calibrate false) idle
    shows t 0 = (2, 0) ∧ t.sensors.held = true ∧ t.directives.active = some ⟨.calibrate, some 16, false⟩ := by
  decide +kernel

/-- Step 216: the sixteenth measurement is 3121. -/
def calibrating : State :=
  active ⟨.calibrate, some 1, false⟩ { idle with sensors := { idle.sensors with
    mode := .calibrating
    held := true
    measurements := [9, 11, 10, 12, 10, 9, 11, 10, 3120, 3118, 3121, 3119, 3122, 3120, 3118] } }

theorem test_calibrate_completion :
    let t := after (.calibrateCompletion ⟨0, 3121⟩) calibrating
    t.sensors.offset = 10 ∧ t.sensors.gain = 4046 ∧ shows t 0 = (3, 0) ∧
      memBytes t.xm 0x0818 7 = le16 10 ++ le16 3120 ++ le16 4046 ++ [0] ∧ t.sensors.mode = .settling := by decide +kernel

/-- The later SELFTEST; its eighth measurement is 3122. -/
def selftesting : State :=
  active ⟨.selftest, some 1, false⟩ { idle with sensors := { idle.sensors with
    mode := .selftesting
    held := true
    offset := 10
    gain := 4046
    measurements := [10, 11, 9, 10, 3121, 3119, 3120] } }

theorem test_selftest_completion :
    let t := after (.selftestCompletion ⟨0, 3122⟩) selftesting
    shows t 0 = (3, 0) ∧ memBytes t.xm 0x0818 5 = le16 0 ++ le16 3073 ++ [0] := by decide +kernel

theorem test_selftest : (after (.selftest false) idle).directives.active = some ⟨.selftest, some 8, false⟩ := by
  decide +kernel

theorem test_sensor_setup :
    let t := after (.sensorSetup 1 (-2560) 32768 false) idle
    let u := after (.sensorSetup 1 (-2000) 13107 false) idle
    shows t 0 = (4, 2) ∧ memRead t.xm 0x0818 = 3 ∧ u.sensors.pairs[1] = ⟨-2000, 13107⟩ ∧
      u.sensors.settleCount = 2 := by decide +kernel

/-! ### Directives (chapter 9) -/

/-- "bringing up the part and cancelling a batch", events 1 to 3: SUPPLY_SETUP 2400, PROFILE_LOAD 3, CHAIN_SETUP,
CONDITION_SETUP with recovery 3200, SLOT_SETUP 40. -/
def batch : State :=
  withBytes 0x0800
    ([1, 4, 0, 0] ++ le16 2400 ++ zeros 26 ++ ([1, 6, 1, 0, 3] ++ zeros 27) ++
      ([1, 2, 0, 0, 0, 0] ++ le16 8000 ++ le16 40 ++ le16 6080 ++ zeros 20) ++
      ([1, 3, 0, 0, 16, 0] ++ le16 3072 ++ le16 250 ++ le16 3200 ++ le16 1250 ++ le16 72 ++ zeros 16) ++
      ([1, 1, 0, 0] ++ le16 40 ++ [0, 2, 5] ++ zeros 23))
    (withBytes 0x1180 (le16 3 ++ le16 40 ++ le16 2570 ++ zeros 102) idle)

theorem test_nudge_batch :
    let t := after .nudge batch
    shows t 0 = (3, 0) ∧ shows t 1 = (2, 0) ∧ t.directives.cursor = 1 ∧ t.supply.configured = 2400 := by decide +kernel

theorem test_step_event_batch :
    let t := after (.directiveStepEvent ⟨0, 0⟩) (after .nudge batch)
    shows t 1 = (3, 0) ∧ shows t 2 = (3, 0) ∧ shows t 3 = (4, 2) ∧ memRead t.xm 0x0878 = 4 ∧ shows t 4 = (3, 0) ∧
      t.directives = ⟨5, none⟩ ∧ t.slot.n = 40 ∧ t.port.ncause = 4 ∧ (t.store.slots[3]).isSome = true := by decide +kernel

theorem test_slot_setup :
    let t := after (.slotSetup 900 3 7 255 false) stopped
    t.slot.n = 900 ∧ t.slot.watch = 255 ∧ memRead16 t.xm 2 = 900 ∧
      shows (after (.slotSetup 900 3 7 255 true) running) 0 = (4, 3) := by decide +kernel

theorem test_chain_setup :
    (after (.chainSetup 1 3840 0x0078 (-2560) false) idle).config.get 1 = ⟨3840, 120, -2560⟩ ∧
      memRead (after (.chainSetup 1 3839 0x0078 (-2560) false) idle).xm 0x0818 = 2 := by decide +kernel

theorem test_supply_setup : (after (.supplySetup 8000 false) running).supply = ⟨8000, 8000⟩ ∧
    shows (after (.supplySetup 8001 false) running) 0 = (4, 2) := by decide +kernel

theorem test_profile_load : shows (after (.profileLoad 3 false) batch) 0 = (2, 0) ∧
    shows (after (.profileLoad 16 false) idle) 0 = (4, 2) := by decide +kernel

/-- R85: an empty staging image for slot 0 fails its R, point 255, kind 2. -/
theorem test_profile_load_completion :
    let t := after .profileLoadCompletion (after (.profileLoad 0 false) idle)
    shows t 0 = (4, 5) ∧ memBytes t.xm 0x0818 2 = [255, 2] ∧ t.store.buffer = none := by decide +kernel

theorem test_profile_drop : (after (.profileDrop 3 false) (loaded idle)).store.slots[3] = none := by decide +kernel

theorem test_pause :
    (after (.pause 2 false) idle).directives.active = some ⟨.pause 2, some 2, false⟩ ∧
      shows (after .pauseCompletion (after (.pause 1 false) idle)) 0 = (3, 0) := by decide +kernel

/-- R160: two posted entries behind the cursor are discarded. -/
theorem test_clear_pending :
    let t := after (.clearPending false) (withBytes 0x0840 [1] (withBytes 0x0820 [1] idle))
    shows t 0 = (3, 0) ∧ memRead t.xm 0x0818 = 2 ∧ shows t 1 = (5, 0) ∧ shows t 2 = (5, 0) := by decide +kernel

/-! ### Capture: "filling, losing and recovering" (chapter 11) -/

theorem test_capture_start :
    let tags : Vector Byte 8 := #v[20, 21, 28, 29, 0, 0, 0, 0]
    let t := after (.captureStart 4 tags 4 1000 false) idle
    t.capture.on = true ∧ t.capture.sources = [20, 21, 28, 29] ∧ t.capture.count = 4 ∧
      memRead (after (.captureStart 6 tags 4 1000 false) idle).xm 0x0818 = 7 := by decide +kernel

/-- Capture on with four sources; a burst in flight. -/
def captured (w : Half) (lost : Nat) : State :=
  let r : CaptureRecord := ⟨5, 20, false, false, false, 6080⟩
  { running with capture := ⟨true, [20, 21, 22, 23], 1, 1022, 1, false, w, lost, false, some [r, r, r, r]⟩ }

/-- Events 1, 2 and 4. -/
theorem test_burst_completion :
    let t := after .burstCompletion (captured 1020 0)
    let u := after .burstCompletion (captured 1024 0)
    let v := after .burstCompletion (withBytes 0x003C (le16 600) (captured 1024 4))
    t.capture.w = 1024 ∧ t.capture.above = true ∧ t.port.ncause = 8 ∧ u.capture.w = 1024 ∧ u.capture.lost = 4 ∧
      v.capture.w = 1029 ∧ v.capture.lost = 0 ∧ memBytes v.xm 0x2000 8 = [5, 0, 0, 0, 255, 128, 4, 0] ∧
      v.capture.above = false := by decide +kernel

theorem test_capture_stop :
    (after (.captureStop false) (captured 0 0)).directives.active = some ⟨.captureStop, none, false⟩ ∧
      (after .burstCompletion (after (.captureStop false) (captured 0 0))).capture.on = false := by decide +kernel

/-- Capture on, no burst in flight, the count at its last step. -/
def counting : State := { captured 0 0 with capture := { (captured 0 0).capture with burst := none } }

theorem test_capture_step : (after (.captureStepEvent false) counting).capture.burst.map List.length = some 4 := by
  decide +kernel

theorem test_burst_preparation : after .burstPreparation counting = after (.captureStepEvent false) counting := by
  decide +kernel

/-! ### The memory port (chapter 11) -/

theorem test_board_publication :
    memBytes (after .statusBoardPublication running).xm 0x0040 3 = [2, 0, 3] := by decide +kernel

/-- R150, R178: a byte of the outcome calendar is discarded; ACTIVE is not written into a state field; an intent lands. -/
theorem test_spi_write :
    memRead (after (.spiWrite [0x04, 0x00, 9]) idle).xm 0x0400 = 0 ∧
      memRead (after (.spiWrite [0x08, 0x00, 2]) idle).xm 0x0800 = 0 ∧
      memBytes (after (.spiWrite [0x02, 0x00, 7, 8]) idle).xm 0x0200 2 = [7, 8] := by decide +kernel

/-- R180, R170, R176: GCTL before NCAUSE, so that a RUN written in STOPPED starts nothing; NUDGE by its upper byte alone. -/
theorem test_spi_write_ascending :
    let t := after (.spiWrite [0x40, 0x02, 1, 0, 0, 0, 0x20, 0]) stopped
    t.governor.state = .idle ∧ t.governor.run = false ∧ t.port.ncause = 0 ∧
      shows (after (.spiWrite [0x40, 0x0B, 0]) (posting 15 0 1)) 0 = (4, 1) := by decide +kernel

theorem test_spi_quad_write : (after (.spiQuadWrite [0x40, 0x02, 1, 0]) idle).governor.state = .running := by decide +kernel

theorem test_spi_read : (after (.spiRead (.start [0x40, 0x00] 6 true)) idle).port.sent = [0x22, 0x48, 0, 0, 1, 0] := by
  decide +kernel

/-- R179: the address wraps from 0xFFFF to 0, where the layout version stands. -/
theorem test_spi_read_wraps : (after (.spiRead (.start [0xFF, 0xFF] 3 true)) idle).port.sent = [0, 1, 0] := by
  decide +kernel

/-- R181: a change between two stretches does not show within a block, and shows in the next block. -/
theorem test_spi_quad_read :
    let s := after (.spiQuadRead (.start [0x00, 0x3D] 1 false)) idle
    let t := withBytes 0x003E [7, 7, 7] s
    (after (.spiQuadRead (.more 3 true)) t).port.sent = [0, 0, 7] := by decide +kernel

theorem test_run : (after .runWritten1 idle).governor.state = .running ∧ (after .runWritten0 slot40).governor.state = .idle ∧
    (after .runWritten0 slot40).slot.inForce.get 0 = ⟨.muted, .governor⟩ := by decide +kernel

theorem test_ncause_clear : (after (.ncauseClear 0x0006) { idle with port := ⟨15, 0, none, [], none⟩ }).port.ncause = 9 := by
  decide +kernel

theorem test_stopped_clear : (after .stoppedClear stopped).governor.state = .idle ∧
    (after .stoppedClear stopped).port.ncause = 0 := by decide +kernel

theorem test_nmask : notifyAsserted (after (.nmask 0x0020) stopped) = true ∧ notifyAsserted stopped = false := by
  decide +kernel

theorem test_register_write : (after (.registerWrite .gstate 0xFFFF) idle).governor = idle.governor := by decide +kernel

/-! ### The lines of the port (R179) -/

/-- A write's bytes after its command byte, the bits of a ninth byte dropped; a read's bytes as they fall due. -/
theorem test_line_transactions :
    (lineEvents (transaction [0xA2, 0x40, 0x02, 1, 0] [true, false]) idle).pending = [.spiWrite [0x40, 0x02, 1, 0]] ∧
      (lineEvents (transaction [0xB3, 0x40, 0x00, 0xFF, 0, 0] []) idle).pending =
        [.spiQuadRead (.start [0x40, 0x00] 1 false), .spiQuadRead (.more 1 false), .spiQuadRead (.more 0 true)] := by
  decide +kernel

/-- Another command byte and an incomplete address bring nothing; a write that RESET_N meets is lost, and the bytes that
follow it. -/
theorem test_line_ignored :
    (lineEvents (transaction [0xA4, 0x40, 0x02, 1, 0] []) idle).pending = [] ∧
      (lineEvents (transaction [0xA2, 0x40] [true]) idle).pending = [] ∧
      (let s := lineEvents [.csFalls, .byteEnds 0xA2, .byteEnds 0x40] idle;
        let t := after (.resetRelease .resetN) (after .resetN s);
        s.port.incoming = some [0xA2, 0x40] ∧
          (lineEvents [.byteEnds 0x02, .byteEnds 1, .byteEnds 0, .csRises []] t).pending = []) := by decide +kernel

/-! ### Witnesses: states and operands that meet the hypotheses of each statement, clause by clause -/

/-- Every command's answer, by name. -/
theorem exec_after (c : Instr) (s : State) : exec c s = .next (after c s) := by
  cases c <;> rfl

/-- The bounds of the decisions where nothing is ON or pending. -/
theorem decisionLaw_of_muted (s : State) (hf : ∀ c, -80 ≤ (s.config.get c).floor ∧ (s.config.get c).floor ≤ 120)
    (hc : ∀ id : Fin 19, capsPower id = true →
      -200 ≤ s.supervisor.entries[id].cap ∧ s.supervisor.entries[id].cap ≤ 120)
    (hm : ∀ c, (s.slot.inForce.get c).force = .muted) (hp : s.slot.prepared = none) : DecisionLaw s := by
  refine ⟨hf, hc, fun c r h => ?_, fun p h => ?_⟩
  · rw [hm c] at h
    cases h
  · rw [hp] at h
    cases h

/-- A machine in IDLE with a command waiting. -/
def queued : State := { idle with pending := [.nudge] }

theorem witness_StepRunsTheFrontCommand : State.reset.pending = [] := rfl

theorem witness_EveryCommandAnswersAndKeepsTheQueue : Instr.slotp ≠ .powerOnReset ∧ Instr.slotp ≠ .resetN ∧
    ∀ source, Instr.slotp ≠ .resetRelease source := ⟨nofun, nofun, fun _ => nofun⟩

theorem witness_HeldResetsAndIdleStrobesShutOut : resetHeld (after .powerOnReset running) = true ∧
    resetHeld (after .resetN running) = true ∧ raises .slotp .prepare = true ∧ raises .slota .activate = true ∧
    idle.governor.state ≠ .running ∧ stopping.governor.state ≠ .running := by decide +kernel

theorem witness_WarmResetKeepsWhatItMust : resetHeld calibrating = false ∧ calibrating.directives.active.isSome = true := by
  decide +kernel

/-- `slot40` with chain 0's junction estimate at its trip, one evaluation before the dwell. -/
def hot40 : State :=
  withThermal ⟨0, none, 3520, 0, 6080, true, 9600⟩ (withCond 0 .alert 1 slot40)

/-- No intent has the tag 40; the miss count formed is 2, the hold limit, then 3. -/
theorem witness_PrepareFormsThePendingSlot :
    (resetHeld limits = false ∧ limits.governor.state = .running ∧
      memRead16 limits.xm (intentAddr limits.slot.n) = limits.slot.n ∧
      memRead16 limits.xm (intentAddr limits.slot.n + 18) = limits.slot.n ∧ resetHeld slot40 = false ∧
      slot40.governor.state = .running ∧ memRead16 slot40.xm (intentAddr slot40.slot.n) ≠ slot40.slot.n) ∧
    (min 255 (1 + 1) ≤ slot40.slot.holdLimit ∧ slot40.slot.holdLimit < min 255 (2 + 1)) ∧
    (condState (withCond 18 .holdoff 0 idle) 18 = .holdoff ∧ effectiveBudget idle = 3000 ∧
      effectiveBudget (withCond 18 .holdoff 0 idle) = 1500 ∧
      effectiveBudget (withCond 17 .tripped 0 (withCond 18 .alert 0 idle)) = 2000) ∧
    (((0x7F : Byte).extractLsb' 5 3).toNat = 3 ∧ ((0x80 : Byte).extractLsb' 5 3).toNat = 4) ∧
    (slot40.slot.inForce.get 0).force = .on on96 ∧ slot40.slot.inForce.get 1 = ⟨.muted, .governor⟩ ∧
    ((slot40.slot.inForce.set 1 ⟨.off, .off⟩).get 1).force = .off ∧
    ((after .conditionEvaluation hot40).slot.justCut.get 0 = true ∧
      (after .conditionEvaluation hot40).supervisor.cutRequest.get 0 = true ∧
      (after .conditionEvaluation hot40).slot.inForce.get 0 = ⟨.muted, .cut⟩ ∧
      resetHeld (after .conditionEvaluation hot40) = false ∧ (after .conditionEvaluation hot40).governor.state = .running) ∧
    slot40.slot.justCut.get 1 = false ∧
    MuteLaw limits := by
  refine ⟨?_, ?_, ?_, ?_, rfl, ?_, ?_, ?_, ?_, fun c _ => ?_⟩
  on_goal 9 => revert c
  all_goals decide +kernel

/-- A chain whose line was released and which a prepare decides OFF keeps its line released (R144). -/
theorem test_prepare_asserts_no_other_line :
    let s := after .slota (prepared (record .acknowledged 0 0 false))
    (s.drive.chains.get 0).mute = false ∧ ((after .slotp s).drive.chains.get 0).mute = false := by decide +kernel

/-- `limits` with a chain's drive link cut. -/
def limitsCut : State :=
  { limits with drive := ⟨limits.drive.chains.set 1 { driveAtReset with cut := true }, none⟩ }

/-- Chain 2 of `limits` has the ceiling -40: a request of 88 is 128 above it, one of 87 is 127 above it. -/
theorem witness_DecisionsFollowTheStages : DecisionLaw limits ∧ DecisionLaw (withCond 2 .latched 0 limits) ∧
    DecisionLaw (withCond 0 .tripped 0 limits) ∧ DecisionLaw limitsCut ∧ namedImage limits 9 = none ∧ namedImage limits 5 = some profile5 ∧
    chainLatched (withCond 2 .latched 0 limits) 0 = true ∧ chainLatched limits 2 = false ∧
    (condState (withCond 0 .tripped 0 limits) (chainEntry 0 0)).acting = true ∧
    (condState limits (chainEntry 2 0)).acting = false ∧ (limits.drive.chains.get 2).cut = false ∧
    (limitsCut.drive.chains.get 1).cut = true ∧ chainLatched limitsCut 1 = false ∧
    (condState limitsCut (chainEntry 1 0)).acting = false ∧
    88 - candidatePower limits 2 88 (chainCeiling limits 2 profile5) = 128 ∧
    87 - candidatePower limits 2 87 (chainCeiling limits 2 profile5) = 127 ∧
    candidatePower (withCond 1 .holdoff 0 idle) 0 112 120 = 80 ∧ candidatePower idle 0 112 120 = 112 ∧
    (let k : Candidate := ⟨1, 0, 2, 80, false, 120, 80, flatImage 200⟩;
      allocate 200 [k] = [(k, some 80)] ∧ allocate 199 [k] = [(k, none)]) := by
  refine ⟨decisionLaw_of_muted _ ?_ ?_ ?_ rfl, decisionLaw_of_muted _ ?_ ?_ ?_ rfl,
    decisionLaw_of_muted _ ?_ ?_ ?_ rfl, decisionLaw_of_muted _ ?_ ?_ ?_ rfl, ?_⟩ <;> decide +kernel

theorem witness_CurveLookupInterpolates : (0 < (1 : Fin 8).val ∧ profile3.dissipations[0] ≤ profile3.dissipations[1]) ∧
    profile3.valid = true ∧ (-81 : Int) ≤ -80 ∧ (112 : Int) ≤ 112 := by decide +kernel

/-- D(112) is 3150 and D(-80) is 310. -/
theorem witness_ThermalCeilingIsTheLargestFit : profile3.valid = true ∧ curveAt profile3.dissipations 112 ≤ 3150 ∧
    3149 < curveAt profile3.dissipations 112 ∧ curveAt profile3.dissipations (-80) ≤ 310 ∧
    309 < curveAt profile3.dissipations (-80) ∧ thermalCeiling profile3.dissipations 2199 = some 96 := by decide +kernel

/-- The candidates need 2775 mA, those of class 0 900 mA: each budget at the edge of its clause. -/
theorem witness_AllocationServesTheClassesInOrder : sumAt Candidate.power candidates ≤ 2775 ∧
    2774 < sumAt Candidate.power candidates ∧
    899 < sumAt Candidate.power (candidates.filter fun k => decide (k.priority = 0)) ∧
    sumAt Candidate.power (candidates.filter fun k => decide (k.priority = 0)) ≤ 900 := by decide +kernel

theorem witness_MapLaw : MapLaw queued ∧ step queued = .next (after .nudge idle) := by
  refine ⟨⟨by decide +kernel, fun a h => memRead_eq_zero ?_⟩, exec_after .nudge idle⟩
  have hb : ∀ p ∈ queued.xm, p.1 < 0xD00 := by decide +kernel
  intro p hp
  have := hb p hp
  unfold InRun at h
  omega

theorem witness_invariants : HeaderLaw queued ∧ ActiveEntryLaw queued ∧ ThermalLaw queued ∧ CutLaw queued ∧
    MuteLaw queued ∧ HoldLaw queued ∧ StoreLaw queued ∧ PendingLaw queued ∧ GovernorLaw queued ∧ DecisionLaw queued ∧
    step queued = .next (after .nudge idle) := by
  refine ⟨?_, ?_, ?_, ?_, ?_, ?_, ?_, ?_, ?_, ?_, exec_after .nudge idle⟩
  · unfold HeaderLaw; decide +kernel
  · unfold ActiveEntryLaw; decide +kernel
  · unfold ThermalLaw; decide +kernel
  · unfold CutLaw; decide +kernel
  · exact fun c _ => by revert c; decide
  · unfold HoldLaw; decide +kernel
  · intro j im h
    have hn : ∀ j : Fin 16, queued.store.slots[j] = none := by decide
    rw [hn j] at h
    cases h
  · exact ⟨fun _ => by decide, by decide⟩
  · exact ⟨nofun, fun _ => rfl, by decide, nofun, fun _ => by decide, nofun, fun _ => nofun⟩
  · refine decisionLaw_of_muted _ ?_ ?_ ?_ rfl <;> decide +kernel

/-! #### The slot cycle and the drive link -/

/-- The hypotheses of a drive result or an activation with a slot pending. -/
def canActivate (s : State) : Bool :=
  !resetHeld s && decide (s.governor.state = .running) && decide (s.slot.prepared = some pending96)

theorem witness_ActivationBringsThePreparedSlotIntoForce :
    canActivate (prepared (record .acknowledged 0 0 false)) = true ∧ canActivate (prepared (record .failed 0 0 false)) = true ∧
    (pending96.chains.get 2).verdict.state = .muted ∧ (pending96.chains.get 0).verdict.state ≠ .muted ∧
    (record .acknowledged 0 0 false).fate = .acknowledged ∧ (record .failed 0 0 false).fate ≠ .acknowledged := by
  decide +kernel

theorem witness_OrphanActivationRepeatsWhatIsInForce : resetHeld slot40 = false ∧ slot40.governor.state = .running ∧
    slot40.slot.prepared = none := by decide +kernel

/-- A SLOT_SETUP completed in entry 0 and a PAUSE of no steps posted after it. -/
def setUp : State := withBytes 0x0820 [1, 0x0D] (after (.slotSetup 7 3 2 4 false) idle)

theorem witness_SlotCounterChangesOnlyWhereItMay :
    exec .nudge setUp = .next (after .nudge setUp) ∧ entryKind (after .nudge setUp).xm 0 = 1 ∧
    (∀ e, MayBeTaken .nudge setUp e → entryKind (after .nudge setUp).xm e ≠ 1) ∧
    exec .slota idle = .next (after .slota idle) ∧ exec .slota running = .next (after .slota running) ∧
    (resetHeld running = false ∧ running.governor.state = .running ∧ raises .nudge .powerOn = false ∧
      raises .nudge .warm = false ∧ raises .nudge .directive = true ∧ raises .nudge .activate = false ∧
      raises .slota .powerOn = false ∧ raises .slota .warm = false ∧ raises .slota .directive = false ∧
      idle.governor.state ≠ .running ∧ (after .slota running).slot.n ≠ running.slot.n) ∧
    exec .powerOnReset idle = .next (after .powerOnReset idle) ∧
    exec .warmReset idle = .next (after .warmReset idle) ∧ resetHeld idle = false := by
  unfold MayBeTaken
  refine ⟨rfl, ?_, ?_, rfl, rfl, ?_, rfl, rfl, ?_⟩ <;> decide +kernel

/-- Chain 0 may send its word again or not: its last acknowledged word is the word (0, 0) that a prepare without intents
hands over, or another, or it is cut, or a word of it is in transfer. -/
def acked (w : DriveWord) (cut : Bool) : State :=
  { running with drive := ⟨running.drive.chains.set 0 { driveAtReset with lastAck := some w, cut := cut }, none⟩ }

theorem witness_PrepareHandsOverTheWords :
    (resetHeld (acked ⟨false, 0⟩ false) = false ∧ (acked ⟨false, 0⟩ false).governor.state = .running ∧
      (after .slotp (acked ⟨false, 0⟩ false)).slot.prepared.map (fun p => (p.chains.get 0).verdict.word) =
        some ⟨false, 0⟩ ∧ ((acked ⟨true, 0⟩ false).drive.chains.get 0).lastAck ≠ some ⟨false, 0⟩ ∧
      ((acked ⟨false, 0⟩ true).drive.chains.get 0).cut = true ∧ inTransfer (inFlight false running).drive 0 = true) ∧
    ((inFlight false running).drive.transfer.isSome = true ∧ (acked ⟨false, 0⟩ false).drive.transfer = none) ∧
    (let r : DriveRecord := ⟨some ⟨true, 8⟩, none, ⟨true, 8⟩, .outstanding, 0, 0, false, true⟩
      let d : DrivePort := ⟨⟨{ r with lastAck := some ⟨true, 8⟩ }, r, r, r⟩, none⟩
      d.transfer = none ∧ (d.chains.get 1).waiting = some ⟨true, 8⟩ ∧ (d.chains.get 1).lastAck ≠ some ⟨true, 8⟩ ∧
        (d.chains.get 0).waiting = some ⟨true, 8⟩ ∧ (d.chains.get 0).cut = false ∧
        (d.chains.get 0).lastAck = some ⟨true, 8⟩) := by decide +kernel

/-- RUN written 0 with a word in transfer. -/
def runCleared : State := after .runWritten0 (inFlight true running)

theorem governorLaw_runCleared : GovernorLaw runCleared := by
  have hx : runCleared.drive.transfer = some ⟨0, ⟨true, 16⟩, true, false⟩ := by decide +kernel
  refine ⟨by decide +kernel, by decide +kernel, by decide +kernel, fun h => absurd h (by decide +kernel), by decide +kernel,
    fun h => absurd h (by decide +kernel), fun _ x h => ?_⟩
  rw [hx] at h
  cases h
  rfl

theorem witness_TransferCompletionFollowsTheAcknowledge : GovernorLaw runCleared ∧
    resetHeld runCleared = false ∧ runCleared.governor.state = .idle ∧ runCleared.drive.transfer.isSome = true ∧
    resetHeld (inFlight false running) = false ∧
    (inFlight false running).drive.transfer = some ⟨0, ⟨true, 16⟩, false, true⟩ ∧
    (inFlight true running).drive.transfer = some ⟨0, ⟨true, 16⟩, true, true⟩ ∧
    running.governor.state ≠ .stopping ∧ stopping.governor.state = .stopping ∧ resetHeld stopping = false ∧
    stopping.drive.transfer.isSome = true := ⟨governorLaw_runCleared, by decide +kernel⟩

/-- Counts at the edges: two failures, seven and six successes. -/
theorem witness_DriveResultsCountAndCut : canActivate (prepared (record .outstanding 2 0 false)) = true ∧
    canActivate (prepared (record .outstanding 1 0 false)) = true ∧
    canActivate (prepared (record .acknowledged 0 7 true)) = true ∧
    canActivate (prepared (record .acknowledged 0 6 true)) = true ∧
    canActivate (prepared (record .acknowledged 0 0 false)) = true ∧
    (record .outstanding 2 0 false).fate ≠ .acknowledged ∧ (record .outstanding 2 0 false).cut = false ∧
    (pending96.chains.get 0).verdict.state ≠ .muted := by decide +kernel

/-- The activation of a slot that decides chain 0 ON releases its line. -/
theorem witness_EveryStepKeepsTheMuteLines :
    let s := prepared (record .acknowledged 0 0 false)
    exec .slota s = .next (after .slota s) ∧ (s.drive.chains.get 0).mute = true ∧
      ((after .slota s).drive.chains.get 0).mute = false := ⟨rfl, by decide +kernel⟩

/-- Each directive at its last step, and each event without its cause. -/
theorem witness_InnerStepsAreTheirEnclosingEvents : HoldLaw idle ∧
    (∀ c, exec c idle = .next (after c idle)) ∧
    (active ⟨.profileLoad 3, some 1, false⟩ idle).directives.active = some ⟨.profileLoad 3, some 1, false⟩ ∧
    (active ⟨.pause 2, some 1, false⟩ idle).directives.active = some ⟨.pause 2, some 1, false⟩ ∧
    calibrating.directives.active = some ⟨.calibrate, some 1, false⟩ ∧
    selftesting.directives.active = some ⟨.selftest, some 1, false⟩ ∧ idle.directives.active = none ∧
    idle.drive.transfer = none ∧ idle.capture.burst = none ∧ calibrating.sensors.mode = .calibrating ∧
    selftesting.sensors.mode = .selftesting := by
  refine ⟨?_, fun c => exec_after c idle, rfl, rfl, rfl, rfl, rfl, rfl, rfl, rfl, rfl⟩
  unfold HoldLaw
  decide +kernel

/-- No directive active, one with two steps left, a CAPTURE_STOP without a timer, and another kind at its last step. -/
theorem witness_NoCompletionElsewhere :
    (∀ a ∈ [none, some ⟨.pause 3, some 2, false⟩, some ⟨.captureStop, none, false⟩, some ⟨.calibrate, some 1, false⟩],
      (¬∃ j n k, a = some (⟨.profileLoad j, some n, k⟩ : ActiveDirective) ∧ n ≤ 1) ∧
      (¬∃ j n k, a = some (⟨.pause j, some n, k⟩ : ActiveDirective) ∧ n ≤ 1) ∧
      ¬∃ n k, a = some (⟨.selftest, some n, k⟩ : ActiveDirective) ∧ n ≤ 1) ∧
    (∀ a ∈ [none, some ⟨.calibrate, some 2, false⟩, some ⟨.selftest, some 1, false⟩],
      ¬∃ n k, a = some (⟨.calibrate, some n, k⟩ : ActiveDirective) ∧ n ≤ 1) ∧
    ∀ a, (active a idle).directives.active = some a := by
  refine ⟨?_, ?_, fun _ => rfl⟩ <;> simp

/-- A PROFILE_LOAD_COMPLETION does not end a calibration at its last step. -/
theorem test_load_completion_leaves_a_calibration : after .profileLoadCompletion calibrating = calibrating := by
  decide +kernel

/-! #### The governor -/

theorem witness_RunWritesFollowTheGovernorState : State.reset.governor.state = .init ∧ idle.governor.state = .idle ∧
    running.governor.state = .running ∧ stopping.governor.state = .stopping ∧ stopped.governor.state = .stopped ∧
    resetHeld State.reset = false ∧ resetHeld idle = false ∧ resetHeld running = false ∧ resetHeld stopping = false ∧
    resetHeld stopped = false := by decide +kernel

theorem witness_RegisterWritesAndTheNotifyLine : stopped.governor.state = .stopped ∧ resetHeld stopped = false ∧
    (0x0020 : Half).getLsbD 5 = true ∧ (0x001F : Half).getLsbD 5 = false ∧ idle.governor.state ≠ .stopped ∧
    resetHeld idle = false ∧ causeSet .stopped idle = false := by
  decide +kernel

/-- Chain 0 ON, the watch at 1. -/
def expiring : State := { slot40 with slot := { slot40.slot with watch := 1 } }

theorem witness_WatchExpiryStopsThePart : resetHeld expiring = false ∧ expiring.governor.state = .running ∧
    (expiring.slot.inForce.get 0).force.state = .on ∧ expiring.slot.watch = 1 := by decide +kernel

/-- STOPPING with a burst in flight and the link quiet. -/
def stoppingBurst : State :=
  let s := inState .stopping (captured 0 0)
  { s with governor := { s.governor with quietSlot := true, quietDrive := true } }

theorem witness_ThirdQuietIndicationEntersStopped :
    (resetHeld stopping = false ∧ stopping.governor.state = .stopping ∧ stopping.governor.quietSlot = true ∧
      stopping.governor.quietDrive = false ∧ stopping.governor.quietCapture = true ∧
      stopping.drive.transfer = some ⟨0, ⟨true, 16⟩, false, true⟩) ∧
    (resetHeld stoppingBurst = false ∧ stoppingBurst.governor.state = .stopping ∧
      stoppingBurst.governor.quietSlot = true ∧ stoppingBurst.governor.quietDrive = true ∧
      stoppingBurst.governor.quietCapture = false ∧ stoppingBurst.capture.burst.map List.length = some 4 ∧
      stoppingBurst.capture.lost ≤ 65535 ∧ stoppingBurst.directives.active = none) ∧
    (let s := active ⟨.captureStop, none, true⟩ stoppingBurst;
      resetHeld s = false ∧ s.governor.state = .stopping ∧ s.capture.burst.map List.length = some 4 ∧
        s.directives.active = some ⟨.captureStop, none, true⟩ ∧ entryState s.xm (s.directives.cursor + 1) ≠ 1) ∧
    idle.governor.state ≠ .stopping := by decide +kernel

/-! #### Thermal estimation -/

/-- A thermal record of chain 0 with an accumulator and an association. -/
def heated (energy : Nat) : State := withThermal ⟨energy, some ⟨40, 2570⟩, 3000, 0, 6080, true, 9080⟩ slot40

/-- The table without a valid scan, with an implausible reading, and with a plausible one. -/
theorem witness_ThermalStepFormsTheRecords : resetHeld (heated 0) = false ∧
    ((heated 0).thermal.chains.get 0).assoc = some ⟨40, 2570⟩ ∧ ((heated 0).thermal.chains.get 1).assoc = none ∧
    State.reset.sensors.valid = false ∧ (withReading 0 ⟨0, 15, -2513, true⟩ idle).sensors.readings[0].implausible = true ∧
    idle.sensors.valid = true ∧ (condState idle (chainEntry 0 3)).acting = false ∧
    idle.sensors.readings[0].implausible = false ∧ (heated 0).governor.state = .running ∧
    ((heated 0).slot.inForce.get 0).force.state = .on ∧ (∀ c, (running.slot.inForce.get c).force.state ≠ .on) ∧
    (heated 0).slot.watch ≠ 1 ∧ idle.governor.state ≠ .running := by decide +kernel

theorem witness_StepPowerIsWholeMilliwatts : resetHeld (heated 2097151) = false ∧
    exec .thermalStep (heated 2097151) = .next (after .thermalStep (heated 2097151)) ∧
    ((heated 2097151).thermal.chains.get 0).energy = 2097151 ∧ ((heated 31).thermal.chains.get 0).energy = 31 := by
  refine ⟨?_, rfl, ?_⟩ <;> decide +kernel

theorem witness_RiseMovesTowardsItsTarget : 1 ≤ (⟨255, 65535⟩ : Assoc).k ∧ (⟨255, 65535⟩ : Assoc).k ≤ 65535 ∧
    (⟨1, 32768⟩ : Assoc).k ≤ 32768 ∧ 1 ≤ (⟨1, 1⟩ : Assoc).k ∧ 0 < 16383 ∧ 16383 ≤ 16383 := by decide

/-- A run of one activation, which charges 17,200, and one thermal step. -/
theorem witness_EnergyIsConserved :
    Ledger 0 slot40 (after .thermalStep (after .slota slot40))
      (0 + chargeOf 0 .slota slot40 (after .slota slot40) +
        chargeOf 0 .thermalStep (after .slota slot40) (after .thermalStep (after .slota slot40)))
      (0 + stepPowerOf 0 slot40 (after .slota slot40) +
        stepPowerOf 0 (after .slota slot40) (after .thermalStep (after .slota slot40))) ∧
    chargeOf 0 .slota slot40 (after .slota slot40) = 17200 ∧
    stepPowerOf 0 (after .slota slot40) (after .thermalStep (after .slota slot40)) = 537 ∧
    resetHeld slot40 = false ∧ ((after .thermalStep (heated 31)).thermal.chains.get 0).power < 65535 := by
  refine ⟨.next .thermalStep (.next .slota .start nofun (exec_after _ _) (fun _ => ?_)) nofun (exec_after _ _)
    (fun h => absurd h ?_), ?_⟩ <;> decide +kernel

theorem witness_EstimateStandsBetweenItsEvents : exec .nudge (heated 31) = .next (after .nudge (heated 31)) ∧
    raises .nudge .thermal = false ∧ raises .nudge .activate = false ∧ raises .nudge .powerOn = false ∧
    raises .nudge .warm = false ∧ ((heated 31).thermal.chains.get 0).assoc.isSome = true :=
  ⟨rfl, rfl, rfl, rfl, rfl, rfl⟩

/-! #### Protection conditions -/

theorem witness_EntriesFollowTheStateMachine :
    resetHeld idle = false ∧ exec .conditionEvaluation idle = .next (after .conditionEvaluation idle) ∧
    let e (x : CondState) : CondEntry := { condDefault 16 with state := x }
    (e .latched).state = .latched ∧ (e .clear).state ≠ .latched ∧ ({ e .clear with dwell := 0 } : CondEntry).dwell = 0 ∧
    (e .clear).dwell ≠ 0 ∧ (e .alert).state = .alert ∧ (e .tripped).state = .tripped ∧ (e .holdoff).state = .holdoff ∧
    Side.band ≠ .trip ∧ Side.band ≠ .recovery := ⟨rfl, rfl, by decide⟩

theorem witness_SidesAndSkippedEntries : State.reset.sensors.valid = false ∧ calibrating.sensors.held = true ∧
    idle.sensors.valid = true ∧ idle.sensors.held = false := by decide +kernel

/-- Junction-over of chain 0 at its last count, a slot pending. -/
def hot : State :=
  withThermal ⟨0, none, 3520, 0, 6080, true, 9600⟩ (withCond 0 .alert 1 (prepared (record .acknowledged 0 0 false)))

/-- R17: a trip and the SLOTP of a missed entry within the hold limit end the same way in either order of one instant: MUTED
with CUT (`prepare true` is the SLOTP of the trip's instant, whatever the free value of log entry 27). -/
theorem test_trip_and_slotp_in_either_order :
    let decided (s : State) := s.slot.prepared.map fun p => (p.status, (p.chains.get 0).verdict.state, (p.chains.get 0).reason)
    decided (prepare true (after .conditionEvaluation hot)) = some (.held, .muted, .cut) ∧
      decided (after .conditionEvaluation (after .slotp hot)) = some (.held, .muted, .cut) := by decide +kernel

/-- R8: after a trip of an earlier instant the chain, MUTED in force, is OFF at a held prepare, though the trip stands; another
evaluation, without a trip of its own, makes no difference. -/
theorem test_held_after_an_earlier_trip_is_off :
    let s := after .conditionEvaluation hot
    let decided (t : State) := t.slot.prepared.map fun p => (p.status, (p.chains.get 0).verdict, (p.chains.get 0).reason)
    s.slot.inForce.get 0 = ⟨.muted, .cut⟩ ∧ condState (after .conditionEvaluation s) 0 = .tripped ∧
      decided (prepare false s) = some (.held, .off, .off) ∧
      decided (prepare true (after .conditionEvaluation s)) = some (.held, .off, .off) := by decide +kernel

/-- The detector at the trip value, 400. -/
def stuckAt (n : Nat) : State := withReading 9 ⟨0, n, n, false⟩ stuck

/-- All four open-sensor entries at their fifth count. -/
def blinded (s : State) : State :=
  let r : Reading := ⟨0, 0, -2560, true⟩
  withReading 0 r (withReading 1 r (withReading 2 r (withReading 3 r
    (withCond 3 .alert 4 (withCond 7 .alert 4 (withCond 11 .alert 4 (withCond 15 .alert 4 s)))))))

theorem witness_EvaluationMovesTheTable : resetHeld idle = false ∧
    (¬((idle.governor.state = .idle ∨ idle.governor.state = .running) ∧
      ∀ c, condState (after .conditionEvaluation idle) (chainEntry c 3) = .tripped)) ∧
    (∀ c, (after .conditionEvaluation idle).supervisor.cutRequest.get c = false) ∧ MuteLaw idle ∧
    idle.slot.prepared = none ∧ hot.slot.prepared = some pending96 ∧
    ((after .conditionEvaluation hot).supervisor.cutRequest.get 0 = true ∧
      (after .conditionEvaluation hot).supervisor.cutRequest.get 1 = false) ∧
    (let s := stuckAt 400;
      condState s (chainEntry 2 2) ≠ .latched ∧ condState (after .conditionEvaluation s) (chainEntry 2 2) = .latched ∧
        condState (after .conditionEvaluation s) (chainEntry 1 2) ≠ .latched) ∧
    (blinded idle).governor.state = .idle ∧
      ∀ c, condState (after .conditionEvaluation (blinded idle)) (chainEntry c 3) = .tripped := by
  refine ⟨?_, ?_, ?_, fun c _ => ?_, ?_⟩
  on_goal 4 => revert c
  all_goals decide +kernel

/-- A dwell of 1 met at once (entry 18 at 3300 mV), a dwell of 250 met at its 250th count, a hold-off broken off. -/
def tripping (x : CondState) (n : Nat) : State := withReading 4 ⟨0, 2000, 3072, false⟩ (withCond 16 x n idle)

theorem witness_ConditionTripsAtTheDwell :
    (let s := withReading 5 ⟨0, 1650, 3300, false⟩ idle;
      resetHeld s = false ∧ entrySide s 18 s.supervisor.entries[18] = some .trip ∧ s.supervisor.entries[18].dwell = 1 ∧
        s.supervisor.entries[18].state = .clear) ∧
    (let e := (tripping .alert 249).supervisor.entries[16];
      entrySide (tripping .alert 249) 16 e = some .trip ∧ e.state = .alert ∧ e.dwell = min 65535 (e.elapsed + 1)) ∧
    (let e := (tripping .holdoff 5).supervisor.entries[16];
      entrySide (tripping .holdoff 5) 16 e = some .trip ∧ e.state = .holdoff ∧ e.dwell ≠ 0) ∧
    (let t := after .conditionEvaluation hot;
      hot.supervisor.cutRequest.get 0 = false ∧ condState hot (chainEntry 0 2) = condState t (chainEntry 0 2) ∧
        condState t (chainEntry 0 0) = .tripped ∧
        (¬((hot.governor.state = .idle ∨ hot.governor.state = .running) ∧
          ∀ d, condState t (chainEntry d 3) = .tripped)) ∧
        condState hot (chainEntry 0 0) ≠ .tripped ∧ condState hot (chainEntry 0 2) ≠ .latched ∧
        hot.slot.prepared = some pending96 ∧
        (∀ d : Chain, d ≠ 0 → t.supervisor.cutRequest.get d = hot.supervisor.cutRequest.get d)) ∧
    exec .conditionEvaluation hot = .next (after .conditionEvaluation hot) := by
  refine ⟨?_, ?_, ?_, ?_, rfl⟩ <;> decide +kernel

theorem witness_StuckDriveLatchWritesTheFaultRecord :
    let s := stuckAt 400
    let e := s.supervisor.entries[chainEntry 2 2]
    let t := after .conditionEvaluation s
    resetHeld s = false ∧ entrySide s (chainEntry 2 2) e = some .trip ∧ e.state = .alert ∧ 1 ≤ e.dwell ∧
      e.dwell = min 65535 (e.elapsed + 1) ∧ (s.drive.chains.get 2).lastAck = some ⟨false, 0⟩ ∧
      s.supervisor.cutRequest.get 2 = false ∧ (condState t (chainEntry 2 0)).acting = false ∧
      ¬((s.governor.state = .idle ∨ s.governor.state = .running) ∧ ∀ d, condState t (chainEntry d 3) = .tripped) := by
  decide +kernel

/-- A slot pending, with chain 2's decision given, at the latch of chain 2. -/
def locking (v : Verdict) : State :=
  let p := { pending96 with chains := pending96.chains.set 2 ⟨v, .thermal, 6080⟩ }
  { stuckAt 400 with slot := { (stuckAt 400).slot with prepared := some p } }

/-- The latch of a chain decided ON, OFF and MUTED: its request alone rises; the ON becomes MUTED, LOCK and its 500 mA leave
the 500 mA of the pending slot (R17). -/
theorem witness_StuckDriveLatchLocksThePendingSlot :
    (∀ v ∈ [Verdict.on on96, .off, .muted none none],
      let t := after .conditionEvaluation (locking v)
      resetHeld (locking v) = false ∧ (locking v).supervisor.cutRequest.get 2 = false ∧
        entrySide (locking v) (chainEntry 2 2) (locking v).supervisor.entries[chainEntry 2 2] = some .trip ∧
        condState t (chainEntry 2 2) = .latched ∧ (locking v).slot.prepared.isSome = true ∧
        ¬(∀ d, condState t (chainEntry d 3) = .tripped) ∧
        ∀ d : Chain, d ≠ 2 → t.supervisor.cutRequest.get d = (locking v).supervisor.cutRequest.get d) ∧
    (after .conditionEvaluation (locking (.on on96))).slot.prepared.map (fun q => (q.chains.get 2, q.budgetUsed)) =
      some (⟨.muted (some 104) (some 96), .lock, 6080⟩, 0) := by decide +kernel

/-- The hold met at its last count; a hold of 1 met at once; an entry disabled while it stands TRIPPED. -/
theorem witness_ConditionClearsAtTheHold :
    (let s := withReading 4 ⟨0, 2000, 2816, false⟩ (withCond 16 .holdoff 1249 idle);
      let e := s.supervisor.entries[16]
      resetHeld s = false ∧ entrySide s 16 e = some .recovery ∧ e.state = .holdoff ∧
        e.hold = min 65535 (e.elapsed + 1)) ∧
    (let s := withReading 4 ⟨0, 2000, 2816, false⟩ (withCond 16 .tripped 0 idle);
      let s := { s with supervisor := { s.supervisor with
        entries := s.supervisor.entries.set 16 { s.supervisor.entries[16] with hold := 1 } } }
      entrySide s 16 s.supervisor.entries[16] = some .recovery ∧ s.supervisor.entries[16].state = .tripped ∧
        s.supervisor.entries[16].hold ≤ 1) ∧
    (let s := withCond 0 .tripped 0 idle;
      let s := { s with supervisor := { s.supervisor with
        entries := s.supervisor.entries.set 0 { s.supervisor.entries[0] with dwell := 0 } } }
      entrySide s 0 s.supervisor.entries[0] = some .recovery ∧ s.supervisor.entries[0].state = .tripped ∧
        s.supervisor.entries[0].dwell = 0 ∧ (0 : Fin 19) = chainEntry 0 0 ∧
        condState (after .conditionEvaluation s) (chainEntry 0 2) ≠ .latched ∧ (s.drive.chains.get 0).mute = true) := by
  decide +kernel

theorem witness_LatchedStaysUntilReleased :
    (let s := withCond 2 .latched 0 (after (.releaseLatch 0 false) idle);
      exec .nudge s = .next (after .nudge s) ∧ raises .nudge .powerOn = false ∧
        entryKind (after .nudge s).xm 0 = 0x0C ∧ (∀ e, MayBeTaken .nudge s e → entryKind (after .nudge s).xm e ≠ 0x0C) ∧
        condState s 2 = .latched) ∧
    exec .conditionEvaluation stuck = .next (after .conditionEvaluation stuck) ∧ condState stuck 10 ≠ .latched ∧
    condState (after .conditionEvaluation stuck) 10 = .latched := by
  unfold MayBeTaken
  refine ⟨⟨rfl, ?_⟩, rfl, ?_⟩ <;> decide +kernel

theorem witness_LostSensorsStopThePart : resetHeld (blinded idle) = false ∧ (blinded idle).governor.state = .idle ∧
    (blinded slot40).governor.state = .running ∧ ∀ c, let e := (blinded idle).supervisor.entries[chainEntry c 3]
      (evaluateEntry (chainEntry c 3) e (entrySide (blinded idle) (chainEntry c 3) e)).state = .tripped := by
  decide +kernel

/-! #### Directives -/

/-- The detector of a latched chain at the trip value and just below it. -/
def latched (n : Nat) : State := withReading 9 ⟨0, n, n, false⟩ (after (.conditionTrip 10) stuck)

theorem witness_ReleaseLatchChecksAndReleases : ReadyForOne idle ∧ ReadyForOne (latched 400) ∧
    ReadyForOne (latched 399) ∧ CutLaw (latched 399) ∧ MuteLaw (latched 399) ∧
    condState idle (chainEntry 2 2) ≠ .latched ∧ condState (latched 400) (chainEntry 2 2) = .latched ∧
    ((latched 400).slot.inForce.get 2).force.state ≠ .on ∧
    (latched 400).supervisor.entries[chainEntry 2 2].trip = (latched 400).sensors.readings[9].corrected ∧
    ((latched 399).sensors.readings[9].corrected : Int) < (latched 399).supervisor.entries[chainEntry 2 2].trip ∧
    4 ≤ (4 : Byte).toNat := by
  unfold ReadyForOne CutLaw
  refine ⟨?_, ?_, ?_, ?_, fun c _ => ?_, ?_⟩
  on_goal 5 => revert c
  all_goals decide +kernel

/-- Entry 16 with the recovery at the trip value is refused, one below it accepted; entry 19 does not exist. -/
theorem witness_ConditionSetupReplacesTheParameters : ReadyForOne idle ∧
    ReadyForOne (withCond 16 .tripped 0 idle) ∧ CutLaw idle ∧ MuteLaw idle ∧
    (condSetupFault 16 3072 3072 72 = some 4 ∧ condSetupFault 16 3072 3071 72 = none ∧
      condSetupFault 16 11201 3071 72 = some 2 ∧ condSetupFault 16 3072 3071 121 = some 6) ∧
    (condSetupFault 0 27584 0 0 = some 2 ∧ condSetupFault 4 27583 27582 999 = none ∧
      condSetupFault 5 11200 11200 72 = some 4 ∧ condSetupFault 9 0 (-2560) (-201) = some 6 ∧
      condSetupFault 14 4096 0 0 = some 2 ∧ condSetupFault 14 4095 9999 999 = none ∧
      condSetupFault 3 99999 99999 (-200) = none ∧ condSetupFault 7 0 0 121 = some 6) ∧
    (condSetupFault 17 8191 0 0 = some 2 ∧ condSetupFault 17 8190 8190 0 = some 4 ∧
      condSetupFault 17 8190 8189 8001 = some 6 ∧ condSetupFault 18 3300 3300 0 = some 4 ∧
      condSetupFault 18 3300 8191 0 = some 4 ∧ condSetupFault 18 3300 8190 8000 = none) ∧
    (withCond 16 .tripped 0 idle).supervisor.entries[16].state = .tripped ∧
    (withCond 0 .holdoff 0 idle).supervisor.entries[chainEntry 0 0].state = .holdoff ∧ 19 ≤ (19 : Byte).toNat ∧
    (1 : Half) ≠ 0 := by
  unfold ReadyForOne CutLaw
  refine ⟨?_, ?_, ?_, fun c _ => ?_, ?_⟩
  on_goal 4 => revert c
  all_goals decide +kernel

theorem witness_SlotChainAndSupplySetup : ReadyForOne idle ∧ ReadyForOne running ∧ idle.governor.state = .idle ∧
    running.governor.state = .running ∧ 8000 < (8001 : Half).toNat ∧ (8000 : Half).toNat ≤ 8000 ∧
    4 ≤ (4 : Byte).toNat ∧ (3 : Byte).toNat < 4 ∧ 7 < (8 : Byte).toNat ∧ (7 : Byte).toNat ≤ 7 ∧ (1 : Byte) ≠ 0 ∧
    (3839 : Half).toInt < 3840 ∧ 3840 ≤ (3840 : Half).toInt ∧ 120 < (121 : Half).toInt ∧ (-80 : Half).toInt = -80 ∧
    (-2561 : Half).toInt < -2560 ∧ (11200 : Half).toInt ≤ 11200 := by
  unfold ReadyForOne
  decide +kernel

/-- The settle count at 1 and 0, the scans counted in INIT at 1 and 2. -/
def settling (n : Nat) : State :=
  { idle with sensors := { idle.sensors with mode := .settling, settleCount := n, held := true } }

def waking (n : Nat) : State := { State.reset with governor := { State.reset.governor with initScans := n } }

theorem witness_ScansPublishSettleAndEndInit : resetHeld idle = false ∧ idle.sensors.mode = .scanning ∧
    idle.governor.state ≠ .init ∧ (settling 1).sensors.mode = .settling ∧ (settling 1).sensors.settleCount ≠ 0 ∧
    (settling 0).sensors.settleCount = 0 ∧ (settling 0).governor.state ≠ .init ∧ (waking 1).sensors.mode = .scanning ∧
    (waking 1).governor.state = .init ∧ (waking 1).governor.initScans ≠ 2 ∧ (waking 2).governor.initScans = 2 ∧
    resetHeld (waking 2) = false ∧ resetHeld (settling 0) = false ∧
    ((Vector.replicate 11 (-1) : Vector Int 11)[(0 : Fin 11)] < 0 ∧
      1200000 < (Vector.replicate 11 1200001 : Vector Int 11)[(10 : Fin 11)]) := by decide +kernel

/-- R120: 1 µV below the scale of 0 to 1.2 V and 1 µV above it. -/
theorem test_pin_ends : (scanCodes (.replicate 11 (-1)))[4] = 0 ∧ (scanCodes (.replicate 11 1200001))[4] = 4095 := by
  decide +kernel

theorem witness_SensorDirectivesHoldTheTable : ReadyForOne idle ∧
    (active ⟨.calibrate, some 2, false⟩ idle).directives.active = some ⟨.calibrate, some (0 + 2), false⟩ ∧
    (active ⟨.selftest, some 8, true⟩ idle).directives.active = some ⟨.selftest, some (6 + 2), true⟩ ∧
    5 ≤ (5 : Byte).toNat ∧ (4 : Byte).toNat < 5 ∧ (-2561 : Half).toInt < -2560 ∧ -2560 ≤ (-2560 : Half).toInt ∧
    32767 < (32768 : Half).toNat ∧ (32767 : Half).toNat ≤ 32767 := by
  unfold ReadyForOne
  decide +kernel

/-- A calibration or self-test of equal zeros and equal references, but for the last measurement. -/
def measuring (kind : ActiveKind) (mode : SensorMode) (half : Nat) (zero reference : Int) : State :=
  active ⟨kind, some 1, false⟩ { idle with sensors := { idle.sensors with
    mode := mode
    held := true
    measurements := List.replicate half zero ++ List.replicate (half - 1) reference } }

/-- The zero at 64 and 65, the reference at 2872 and 2871; the self-test's codes at 24, 3096 and 25. -/
theorem witness_CalibrateAndSelftestComplete :
    CompletesNext (measuring .calibrate .calibrating 8 65 3000) .calibrate false ∧
    CompletesNext (measuring .calibrate .calibrating 8 64 2871) .calibrate false ∧
    CompletesNext (measuring .calibrate .calibrating 8 (-64) 2872) .calibrate false ∧
    CompletesNext (measuring .selftest .selftesting 4 24 3096) .selftest false ∧
    CompletesNext (measuring .selftest .selftesting 4 25 3096) .selftest false ∧
    (measuring .calibrate .calibrating 8 65 3000).sensors.measurements.length = 15 ∧
    (measuring .selftest .selftesting 4 24 3096).sensors.measurements.length = 7 ∧
    ((List.replicate 8 (65 : Int)).sum + 4) / 8 = 65 ∧ ((List.replicate 7 (2871 : Int)).sum + 2871 + 4) / 8 = 2871 ∧
    (((List.replicate 4 (24 : Int)).sum + 2) / 4 * 4096 + 2048) / 4096 = 24 := by
  unfold CompletesNext
  decide +kernel

/-- Images at the edges of the checks: R 256, k 0, a current of 8001, a curve that falls. -/
theorem witness_ImageChecksInOrder :
    let b (im : ProfileImage) : LoadBuffer := ⟨3, 3, im⟩
    ((⟨3, 4, profile3⟩ : LoadBuffer).index ≠ (⟨3, 4, profile3⟩ : LoadBuffer).target.val) ∧
    255 < (b { profile3 with r := 256 }).image.r ∧ (b { profile3 with k := 0 }).image.k = 0 ∧
    (b profile3).index = (b profile3).target.val ∧ 8000 < (b (profile 255 65535 8001 0 #v[0, 0, 0, 0, 0])).image.currents[0] ∧
    imageFault (b (profile 255 65535 8001 0 #v[0, 0, 0, 0, 0])) = some ⟨0, 4⟩ ∧
    imageFault (b (profile 255 65535 8000 9 #v[9, 9, 9, 9, 8])) = some ⟨24, 6⟩ ∧
    imageFault (b (profile 255 65535 8000 9 #v[9, 9, 9, 9, 9])) = none := by decide +kernel

theorem witness_ProfilesLoadAndDropWhole : ReadyForOne idle ∧ 16 ≤ (16 : Byte).toNat ∧
    (15 : Byte).toNat = (15 : Fin 16).val ∧
    CompletesNext (after (.profileLoad 0 true) idle) (.profileLoad 0) true ∧
    (after (.profileLoad 0 true) idle).store.buffer.map imageFault = some (some ⟨255, 2⟩) ∧
    imageFault ⟨3, 3, profile3⟩ = none ∧
    CompletesNext (active ⟨.profileLoad 3, some 1, true⟩ { idle with store := ⟨idle.store.slots, some ⟨3, 3, profile3⟩⟩ })
      (.profileLoad 3) true := by
  unfold ReadyForOne CompletesNext
  decide +kernel

/-- A NUDGE over a list with a POSTED entry; a row, for another entry than the cursor's. -/
theorem witness_EveryStepKeepsOneActiveEntry : exec .nudge setUp = .next (after .nudge setUp) ∧
    exec (.pause 1 false) setUp = .next (after (.pause 1 false) setUp) ∧
    (∀ bytes, Instr.nudge ≠ .spiWrite bytes ∧ Instr.nudge ≠ .spiQuadWrite bytes) ∧ Instr.nudge ≠ .powerOnReset ∧
    postsAt .nudge setUp 1 = false ∧ postsAt (.pause 1 false) setUp 0 = false ∧ 1 ≤ 23 ∧ 23 < 24 ∧ 23 ≠ 3 := by
  refine ⟨rfl, rfl, fun _ => ⟨nofun, nofun⟩, nofun, ?_⟩
  decide +kernel

/-- Tags at the edges of their ranges: 10, 16 and 32 are good; 11, 15, 33 and a repeated tag are not. -/
theorem witness_CaptureStartsAndStops : ReadyForOne idle ∧ ReadyForOne running ∧ ReadyForOne stopped ∧
    ReadyForOne (captured 0 0) ∧ ReadyForOne counting ∧ stopped.governor.state = .stopped ∧
    (tagInRange 10 = true ∧ tagInRange 11 = false ∧ tagInRange 15 = false ∧ tagInRange 16 = true ∧
      tagInRange 32 = true ∧ tagInRange 33 = false) ∧
    8 < (9 : Byte).toNat ∧ (8 : Byte).toNat ≤ 8 ∧ 1023 < (1024 : Half).toNat ∧ (1023 : Half).toNat ≤ 1023 ∧
    (captured 0 0).capture.on = true ∧ (captured 0 0).capture.burst ≠ none ∧ counting.capture.burst = none ∧
    (active ⟨.captureStop, none, true⟩ (captured 0 0)).directives.active = some ⟨.captureStop, none, true⟩ := by
  unfold ReadyForOne
  decide +kernel

theorem witness_PauseAndClearPending : ReadyForOne idle ∧ (255 : Byte) ≠ 0 ∧
    (active ⟨.pause 3, some 2, false⟩ idle).directives.active = some ⟨.pause 3, some (0 + 2), false⟩ ∧
    CompletesNext (active ⟨.pause 3, some 1, true⟩ idle) (.pause 3) true ∧
    (let s := posting 13 1 31;
      resetHeld s = false ∧ s.governor.state ≠ .init ∧ s.directives.active = none ∧
        entryState s.xm s.directives.cursor ≠ 2 ∧
        ∀ i, i < 31 → entryState s.xm (s.directives.cursor + 1 + BitVec.ofNat 5 i) = 1) ∧
    (let s := posting 13 1 2;
      entryState s.xm s.directives.cursor ≠ 2 ∧
        (∀ i, i < 2 → entryState s.xm (s.directives.cursor + 1 + BitVec.ofNat 5 i) = 1) ∧
        entryState s.xm (s.directives.cursor + 1 + BitVec.ofNat 5 2) ≠ 1) := by
  unfold ReadyForOne CompletesNext
  decide +kernel

theorem witness_PromptsScanTheList : resetHeld State.reset = false ∧ State.reset.governor.state = .init ∧
    calibrating.directives.active ≠ none ∧ entryState idle.xm idle.directives.cursor ≠ 1 ∧ idle.directives.active = none ∧
    (∀ n, n = 31 ∨ n = 32 → let s := posting 15 0 n
      resetHeld s = false ∧ s.governor.state ≠ .init ∧ s.directives.active = none ∧
        (∀ i, i < n → let e := s.directives.cursor + BitVec.ofNat 5 i
          entryState s.xm e = 1 ∧ ((entryKind s.xm e).toNat = 0 ∨ 14 < (entryKind s.xm e).toNat)) ∧
        (n < 32 → entryState s.xm (s.directives.cursor + BitVec.ofNat 5 n) ≠ 1)) ∧
    (∀ n, n = 2 ∨ n = 32 → let s := withBytes 0x0824 (le16 8000) (posting 4 0 n)
      resetHeld s = false ∧ s.governor.state ≠ .init ∧ s.directives.active = none ∧
        (∀ i, i < n → let e := s.directives.cursor + BitVec.ofNat 5 i
          entryState s.xm e = 1 ∧ entryKind s.xm e = 0x04 ∧ (memRead16 s.xm (entryAddr e + 4)).toNat ≤ 8000) ∧
        (n < 32 → entryState s.xm (s.directives.cursor + BitVec.ofNat 5 n) ≠ 1)) ∧
    (let s (kind : Byte) (g : GovState) := inState g (posting kind 0 1);
      resetHeld (s 1 .running) = false ∧ (s 1 .running).directives.active = none ∧
        entryState (s 1 .running).xm 0 = 1 ∧ entryState (s 1 .running).xm 1 ≠ 1 ∧ entryKind (s 1 .running).xm 0 = 0x01 ∧
        entryKind (s 10 .stopped).xm 0 = 0x0A ∧ (s 10 .stopped).governor.state = .stopped) := by
  refine ⟨?_, ?_, ?_, ?_, ?_, ?_, ?_, ?_⟩
  on_goal 6 => rintro n (rfl | rfl)
  on_goal 8 => rintro n (rfl | rfl)
  all_goals decide +kernel

/-! #### Capture and the memory port -/

/-- A count of 2, of 1 and of 0; a waiting CAPTURE_STOP; a burst in flight. -/
theorem witness_CaptureStepsCountAndPrepare : resetHeld counting = false ∧ idle.capture.on = false ∧
    (inState .stopping counting).governor.state = .stopping ∧ counting.capture.on = true ∧
    counting.governor.state ≠ .stopping ∧ counting.capture.startFresh = false ∧
    1 < ({ counting.capture with count := 2 } : CaptureUnit).count ∧ counting.capture.count ≤ 1 ∧
    counting.capture.burst = none ∧ counting.directives.active = none ∧ (captured 0 0).capture.burst ≠ none ∧
    (active ⟨.captureStop, none, true⟩ counting).directives.active = some ⟨.captureStop, none, true⟩ ∧
    (10 : Byte).toNat = (10 : Fin 11).val ∧ 11 ≤ (11 : Byte).toNat ∧ (19 : Byte).toNat = 16 + (3 : Chain).val ∧
    (20 : Byte).toNat = 20 + (0 : Chain).val ∧ (31 : Byte).toNat = 28 + (3 : Chain).val ∧ (32 : Byte).toNat = 32 := by
  decide +kernel

/-- The fills 1022 to 1025, without and with records lost. -/
theorem witness_BurstsLandByTheFill :
    let f (s : State) : Nat := (s.capture.w - memRead16 s.xm 0x003C).toNat
    (resetHeld (captured 1022 1) = false ∧ (captured 1022 1).governor.state ≠ .stopping ∧
      (captured 1022 1).capture.burst.map List.length = some 4 ∧ (captured 1022 1).capture.lost = 1 ∧
      (captured 1022 1).directives.active = none ∧ f (captured 1022 1) = 1022 ∧ f (captured 1023 1) = 1023 ∧
      f (captured 1024 1) = 1024 ∧ f (captured 1024 0) = 1024 ∧ f (captured 1025 0) = 1025 ∧
      (captured 1025 65535).capture.lost ≤ 65535) ∧
    (let s := active ⟨.captureStop, none, true⟩ (captured 1022 1);
      resetHeld s = false ∧ s.governor.state ≠ .stopping ∧ s.capture.burst.map List.length = some 4 ∧
        s.directives.active = some ⟨.captureStop, none, true⟩ ∧ entryState s.xm (s.directives.cursor + 1) ≠ 1) := by
  decide +kernel

/-- A transaction that writes GCTL to NUDGE, one whose WARM_RESET ends it, one of a single address byte; on the lines, each command byte and a held reset. -/
theorem witness_HostWritesLandWhereTheyMay : resetHeld idle = false ∧ MapLaw idle ∧ [(0x40 : Byte)].length < 2 ∧
    (2 : Half).getLsbD 1 = true ∧ (1 : Half).getLsbD 1 = false ∧ (1 : Half).getLsbD 0 = true ∧
    (0 : Half).getLsbD 0 = false ∧
    (let written (data : List Byte) (a : Half) : Option Byte := (data.take 256)[(a - 0x4002 : Half).toNat]?;
      let word (data : List Byte) (a v : Half) : Prop :=
        written data a = some (v.extractLsb' 0 8) ∧ written data (a + 1) = some (v.extractLsb' 8 8);
      word [1, 0, 0, 0, 0x20, 0, 3, 0, 9] 0x4002 1 ∧ word [1, 0, 0, 0, 0x20, 0, 3, 0, 9] 0x4006 0x20 ∧
        word [1, 0, 0, 0, 0x20, 0, 3, 0, 9] 0x4008 3 ∧ written [1, 0, 0, 0, 0x20, 0, 3, 0, 9] 0x400A = some 9 ∧
        written [1, 0, 0, 0, 0x20, 0, 3, 0, 9] 0x400B = none ∧ word [2, 0, 0, 0, 0x20, 0] 0x4002 2 ∧
        written [2] 0x4003 = none) ∧
    (2 ≤ [(0x40 : Byte), 0x02].length ∧ [(0xA2 : Byte), 0x40].length < 3 ∧ (0xA4 : Byte) ≠ 0xA2 ∧ (0xA4 : Byte) ≠ 0xA3 ∧
      (0xA4 : Byte) ≠ 0xB2 ∧ (0xA4 : Byte) ≠ 0xB3) ∧
    resetHeld (after .powerOnReset idle) = true ∧ idle.port.incoming = none ∧ LineEvent.byteEnds 0 ≠ .csFalls ∧
    raises .nudge .powerOn = false ∧ raises .nudge .warm = false ∧ exec .warmReset idle = .next (after .warmReset idle) := by
  refine ⟨rfl, witness_MapLaw.1, ?_, ?_, ?_, ?_, ?_, ?_, ?_, ?_, ?_, ?_, ?_, ?_, rfl⟩ <;> decide +kernel

/-- The arguments of a CONDITION_SETUP at the offsets of R190: id 4, trip 6-7, dwell 8-9, recovery 10-11, hold 12-13, cap 14-15. -/
theorem test_condition_setup_offsets :
    memBytes (after (.conditionSetup 16 0x0C00 0x00FA 0x0B00 0x04E2 0x0048 true) idle).xm 0x0801 15 =
      [3, 1, 0, 16, 0, 0x00, 0x0C, 0xFA, 0x00, 0x00, 0x0B, 0xE2, 0x04, 0x48, 0x00] := by decide +kernel

/-- Reads in progress at the last byte of their block, at the first byte of the next one, and before their first byte. -/
theorem witness_ReadsAndTheStatusBoard :
    let s (n : Nat) := after (.spiRead (.start [0x00, 0x40] n false)) running
    (resetHeld (s 63) = false ∧ (s 63).port.reading.map (fun t => (t.quad, t.next, t.block.length)) = some (false, 0x007F, 64) ∧
      (0x007F : Half).toNat % 64 = 63) ∧
    ((s 64).port.reading.map (fun t => (t.quad, t.next, t.block.length)) = some (false, 0x0080, 64) ∧
      (0x0080 : Half).toNat % 64 = 0) ∧
    (s 0).port.reading = some ⟨false, 0x0040, []⟩ ∧ running.port.reading = none ∧ resetHeld running = false ∧ [(0x40 : Byte)].length < 2 ∧
    [(0 : Byte)] ≠ [] ∧ (0x3FFF : Half).toNat < 0x4000 ∧ 0x400C ≤ (0x400C : Half).toNat := by
  decide +kernel

end Sys2Proof.Tests
end

section
/-! The slot counter N (R3): which events leave it, its mirror in the header and the directive list, what serving the
directive list makes of it, and where alone it changes. -/

namespace Sys2Proof.Machine

/-! ### Events that leave N, its mirror and the directive list -/

/-- N, the bytes of its mirror and the bytes of the directive list are as before. -/
structure SlotListKept (s t : State) : Prop where
  n : t.slot.n = s.slot.n
  bytes : ∀ x, InRun 2 2 x ∨ InRun 0x0800 0x400 x → memRead t.xm x = memRead s.xm x

namespace SlotListKept

theorem refl (s : State) : SlotListKept s s := ⟨rfl, fun _ _ => rfl⟩

theorem trans {s t u : State} (h : SlotListKept s t) (g : SlotListKept t u) : SlotListKept s u :=
  ⟨g.n.trans h.n, fun x hx => (g.bytes x hx).trans (h.bytes x hx)⟩

theorem of_xm_eq {s t : State} (hn : t.slot.n = s.slot.n) (hm : t.xm = s.xm) : SlotListKept s t :=
  ⟨hn, fun x _ => by rw [hm]⟩

theorem of_lands {p : Nat → Prop} {s t : State} (hn : t.slot.n = s.slot.n) (hl : Lands p s.xm t.xm)
    (hp : ∀ x, p x → 4 ≤ x ∧ (x < 0x0800 ∨ 0x0C00 ≤ x)) : SlotListKept s t :=
  ⟨hn, fun x hx => hl.kept x fun hpx => by
    have := hp x hpx
    unfold InRun at hx
    omega⟩

theorem mirror {s t : State} (h : SlotListKept s t) : memRead16 t.xm 2 = memRead16 s.xm 2 := by
  rw [memRead16, memRead16, h.bytes 2 (.inl ⟨by omega, by omega⟩), h.bytes 3 (.inl ⟨by omega, by omega⟩)]

theorem entry {s t : State} (h : SlotListKept s t) (e : BitVec 5) :
    entryState t.xm e = entryState s.xm e ∧ entryKind t.xm e = entryKind s.xm e := by
  have he := entryAddr_bounds e
  exact ⟨h.bytes _ (.inr ⟨by omega, by omega⟩), h.bytes _ (.inr ⟨by omega, by omega⟩)⟩

end SlotListKept

/-- The outcome calendar lies between the header and the directive list. -/
theorem outcome_run_bounds (n : Half) (x : Nat) (h : InRun (outcomeAddr n) 64 x) : 0x0400 ≤ x ∧ x < 0x0800 := by
  unfold InRun outcomeAddr at h
  omega

theorem fault_run_bounds (x : Nat) (h : InRun 0x0C00 256 x) : 0x0C00 ≤ x := h.1

theorem transferCompleted_slotListKept (ack : Bool) (s : State) : SlotListKept s (transferCompleted ack s) := by
  rw [transferCompleted_frame]
  exact .of_xm_eq rfl rfl

theorem stepEstimator_slotListKept (s : State) : SlotListKept s (stepEstimator s) :=
  .of_lands (p := InRun 8 4) rfl (.store fun x h1 h2 => ⟨h1, by simpa using h2⟩) fun x h => by
    unfold InRun at h
    omega

theorem requestStop_slotListKept (why : StopReason) (stamp : Stamp) (s : State) :
    SlotListKept s (requestStop why stamp s) :=
  .of_lands (requestStop_n why stamp s) (requestStop_lands why stamp s) fun x h => by
    have := outcome_run_bounds _ x h
    omega

/-- The end of an evaluation and of a replaced entry leaves N. -/
theorem synced_n (b : Bool) (k : Cause) (s : State) : (setCauseIf b k (syncCuts s)).slot.n = s.slot.n := by
  rw [setCauseIf_frame, syncCuts_slot]

theorem recordLatches_n (before s : State) : (recordLatches before s).slot.n = s.slot.n := by
  rw [recordLatches_frame]

theorem evaluateTable_n (s : State) : (evaluateTable s).slot.n = s.slot.n := by
  simp only [evaluateTable, synced_n, recordLatches_n, withEntries_slot, forgetCuts_slot]

theorem evaluateTable_slotListKept (s : State) : SlotListKept s (evaluateTable s) :=
  .of_lands (evaluateTable_n s) (evaluateTable_lands s) fun x h => by
    have := fault_run_bounds x h
    omega

theorem replaceEntry_n (id : Fin 19) (e : CondEntry) (s : State) : (replaceEntry id e s).slot.n = s.slot.n := by
  simp only [replaceEntry, synced_n, withEntries_slot]

theorem replaceEntry_slotListKept (id : Fin 19) (e : CondEntry) (s : State) : SlotListKept s (replaceEntry id e s) :=
  .of_xm_eq (replaceEntry_n id e s) (replaceEntry_xm id e s)

theorem releaseLatch_n (c : Chain) (s : State) : (releaseLatch c s).slot.n = s.slot.n := by
  simp only [releaseLatch, replaceEntry_n, putFault, partWrite_slot]

theorem releaseLatch_slotListKept (c : Chain) (s : State) : SlotListKept s (releaseLatch c s) :=
  .of_lands (releaseLatch_n c s) (releaseLatch_lands c s) fun x h => by
    have := fault_run_bounds x h
    omega

theorem countScan_n (s : State) : (countScan s).slot.n = s.slot.n := by
  unfold countScan leaveInit
  dsimp only
  split
  · split
    · split <;> rfl
    · rfl
  · rfl

theorem scanCompleted_slotListKept (raw : Vector (BitVec 12) 11) (s : State) :
    SlotListKept s (scanCompleted raw s) := by
  refine .of_xm_eq ?_ (by rw [scanCompleted_frame])
  unfold scanCompleted
  split
  · exact countScan_n _
  · split
    · exact countScan_n _
    · rfl
  · rfl
  · rfl

theorem finishLoad_slotListKept (s : State) : SlotListKept s (finishLoad s) := by
  rw [finishLoad_frame]
  exact .of_xm_eq rfl rfl

theorem applyCalibration_slotListKept (k : Calibration) (s : State) : SlotListKept s (applyCalibration k s) := by
  rw [applyCalibration_frame]
  exact .of_xm_eq rfl rfl

theorem captureStep_slotListKept (atStart : Bool) (s : State) : SlotListKept s (captureStep atStart s) := by
  rw [captureStep_frame]
  exact .of_xm_eq rfl rfl

theorem burst_slotListKept (b : List CaptureRecord) (s : State) : SlotListKept s (quietAfterBurst (landBurst b s)) := by
  refine .trans (t := landBurst b s) (.of_lands (by rw [landBurst_frame]) (landBurst_lands b s) fun x h => ?_) ?_
  · unfold InRun at h
    omega
  · rw [quietAfterBurst_frame]
    exact .of_xm_eq rfl rfl

theorem stopCapture_slotListKept (s : State) : SlotListKept s (stopCapture s) :=
  .of_xm_eq rfl rfl

theorem enterStoppedIfQuiet_slotListKept (s : State) : SlotListKept s (enterStoppedIfQuiet s) := by
  rw [enterStoppedIfQuiet_frame]
  exact .of_xm_eq rfl rfl

theorem writeNcause_slotListKept (v : Half) (s : State) : SlotListKept s (writeNcause v s) := by
  rw [writeNcause_frame]
  exact .of_xm_eq rfl rfl

theorem writeRun1_slotListKept (s : State) : SlotListKept s (writeRun1 s) := by
  refine .of_xm_eq ?_ (by rw [writeRun1_frame])
  unfold writeRun1
  split <;> rfl

theorem writeRun0_slotListKept (s : State) : SlotListKept s (writeRun0 s) := by
  unfold writeRun0
  split
  · exact .of_xm_eq rfl rfl
  · exact .refl s
  · refine .of_lands (leaveSlots_slot _ s).2.2 (leaveSlots_lands s.thermal.steps s) fun x h => ?_
    have := outcome_run_bounds _ x h
    omega
  · exact .refl s
  · exact .refl s

theorem publishBoard_slotListKept (s : State) : SlotListKept s (publishBoard s) :=
  .of_lands rfl (publishBoard_lands s) fun x h => by
    unfold InRun at h
    omega

/-! ### The four events that move N -/

/-- The header's mirror shows N. -/
def MirrorShowsN (s : State) : Prop :=
  memRead16 s.xm 2 = s.slot.n

theorem putSlotMirror_shows (s : State) : MirrorShowsN (putSlotMirror s) :=
  memRead16_memStore_le16 s.xm 2 s.slot.n

theorem setupSlots_mirrorShowsN (n : Half) (code : Fin 4) (m w : Nat) (s : State) :
    MirrorShowsN (setupSlots n code m w s) :=
  putSlotMirror_shows _

theorem activatePrepared_mirrorShowsN (p : Prepared) (s : State) : MirrorShowsN (activatePrepared p s) :=
  putSlotMirror_shows _

theorem activateOrphan_mirrorShowsN (s : State) : MirrorShowsN (activateOrphan s) :=
  putSlotMirror_shows _

theorem activate_n (s : State) : (activate s).slot.n = s.slot.n + 1 := by
  have h : ∀ (o : SlotOutcome) (t : State), (settleMutes (advanceSlot (writeOutcome o t))).slot.n = t.slot.n + 1 := by
    intro o t
    rw [writeOutcome_frame]
    rfl
  unfold activate
  split
  · exact h _ _
  · exact h _ _

theorem warmReset_n (s : State) : (warmReset s).slot.n = 0 := by
  rw [warmReset_frame]
  rfl

/-- What follows the mirror in a reset's header leaves it. -/
theorem putHeader_mirror (s : State) : memRead16 (putHeader s).xm 2 = s.slot.n := by
  unfold putHeader putCaptureMirror putStepMirror putCursorMirror putLastActivated
  simp only [partWrite_xm]
  rw [memRead16_memStore_of_outside (.inl (by omega)), memRead16_memStore_of_outside (.inl (by omega)),
    memRead16_memStore_of_outside (.inl (by omega)), memRead16_memStore_of_outside (.inl (by omega))]
  exact putSlotMirror_shows _

theorem putFaults_slotListKept (s : State) : SlotListKept s (putFaults s) :=
  .of_lands (by rw [putFaults_frame]) (putFaults_lands s) fun x h => by
    have := fault_run_bounds x h
    omega

theorem warmReset_mirrorShowsN (s : State) : MirrorShowsN (warmReset s) := by
  rw [MirrorShowsN, warmReset_n, warmReset, (publishBoard_slotListKept _).mirror, (putFaults_slotListKept _).mirror,
    putHeader_mirror]
  rfl

theorem powerOnReset_mirrorShowsN (s : State) : MirrorShowsN (powerOnReset s) := by
  show memRead16 xmAtPowerOn 2 = 0
  decide

/-! ### The induction for properties of N and its mirror -/

/-- Bytes 2 and 3 outside the addresses of a change. -/
theorem mirror_of_lands {p : Nat → Prop} {m m' : Memory} (h : Lands p m m') (h2 : ¬p 2) (h3 : ¬p 3) :
    memRead16 m' 2 = memRead16 m 2 := by
  rw [memRead16, memRead16, h.kept 2 h2, h.kept 3 h3]

theorem not_entry_run {e : BitVec 5} {x : Nat} (hx : x < 0x0800) : ¬InRun (entryAddr e) 32 x := by
  have := entryAddr_bounds e
  unfold InRun
  omega

/-- A property of N and its mirror alone, kept by those of the resets, activations and SLOT_SETUPs that may occur, is
kept by every event. -/
theorem keptByEvents_of_slotCounter {ok : EventSort → Prop} {inv : State → Prop}
    (kept : ∀ s t : State, t.slot.n = s.slot.n → memRead16 t.xm 2 = memRead16 s.xm 2 → inv s → inv t)
    (powerOn : ok .powerOn → ∀ s, inv (powerOnReset s)) (warm : ok .warm → ∀ s, inv (warmReset s))
    (activatePrepared : ok .activate → ∀ p s, inv (activatePrepared p s))
    (activateOrphan : ok .activate → ∀ s, inv (activateOrphan s))
    (setup : ok .directive → ∀ n code m w s, inv (setupSlots n code m w s)) : KeptByEvents ok inv := by
  have of_kept {s t : State} (h : SlotListKept s t) : inv s → inv t := kept s t h.n h.mirror
  exact {
    powerOn := fun h s _ => powerOn h s
    warm := fun h s _ => warm h s
    pins := fun _ s => kept s _ rfl rfl
    prepare := fun _ _ s h _ => kept s _ rfl rfl h
    activatePrepared := fun h p s _ _ _ => activatePrepared h p s
    activateOrphan := fun h s _ _ _ => activateOrphan h s
    transfer := fun ack s => of_kept (transferCompleted_slotListKept ack s)
    estimator := fun _ s => of_kept (stepEstimator_slotListKept s)
    watch := fun _ s h _ => kept s _ rfl rfl h
    stop := fun _ why stamp s => of_kept (requestStop_slotListKept why stamp s)
    table := fun _ s => of_kept (evaluateTable_slotListKept s)
    scanDone := fun _ raw s => of_kept (scanCompleted_slotListKept raw s)
    setupSlots := fun h n code m w s _ _ _ _ _ => setup h n code m w s
    setupChain := fun _ _ _ s h _ _ _ _ _ _ => kept s _ rfl rfl h
    setupCondition := fun _ _ _ _ _ _ _ s h _ => of_kept (replaceEntry_slotListKept _ _ s) h
    setupSupply := fun _ _ s h _ => kept s _ rfl rfl h
    setupChannel := fun _ _ _ s h _ _ _ _ _ => kept s _ rfl rfl h
    loadTaken := fun _ _ s => kept s _ rfl rfl
    drop := fun _ _ s => kept s _ rfl rfl
    measuring := fun _ _ s h _ _ => kept s _ rfl rfl h
    captureOn := fun _ _ _ _ s h _ _ _ _ _ => kept s _ rfl rfl h
    captureOff := fun _ s => kept s _ rfl rfl
    release := fun _ c s h _ _ => of_kept (releaseLatch_slotListKept c s) h
    discard := fun _ e s h _ =>
      kept s _ rfl (mirror_of_lands (putEntry_lands e 5 .ok [] s) (not_entry_run (by omega))
        (not_entry_run (by omega))) h
    complete := fun _ state why data notify s h _ =>
      kept s _ (by rw [completeEntry_frame]) (mirror_of_lands (completeEntry_lands state why data notify s)
        (not_or.2 ⟨not_entry_run (by omega), by omega⟩) (not_or.2 ⟨not_entry_run (by omega), by omega⟩)) h
    active := fun _ _ s h _ _ =>
      kept s _ rfl (mirror_of_lands (putEntry_lands s.directives.cursor 2 .ok [] s) (not_entry_run (by omega))
        (not_entry_run (by omega))) h
    timer := fun _ _ _ s h _ _ => kept s _ rfl rfl h
    measure := fun _ _ _ s h _ => kept s _ rfl rfl h
    loadDone := fun _ s h _ => of_kept (finishLoad_slotListKept s) h
    calibrate := fun _ _ s h _ => of_kept (applyCalibration_slotListKept _ s) h
    settle := fun _ s h _ => kept s _ rfl rfl h
    captureStep := fun atStart s => of_kept (captureStep_slotListKept atStart s)
    burst := fun b s h _ => of_kept (burst_slotListKept b s) h
    stoppedIfQuiet := fun s => of_kept (enterStoppedIfQuiet_slotListKept s)
    host := fun _ a data s =>
      kept s _ rfl (mirror_of_lands (hostWrite_lands s.xm a data) (by unfold hostWritable InRun; omega)
        (by unfold hostWritable InRun; omega))
    reading := fun _ _ s => kept s _ rfl rfl
    ncause := fun v s => of_kept (writeNcause_slotListKept v s)
    nmask := fun _ s => kept s _ rfl rfl
    run1 := fun s => of_kept (writeRun1_slotListKept s)
    run0 := fun s => of_kept (writeRun0_slotListKept s)
    post := fun _ kind notify a s =>
      kept s _ (by rw [postAtCursor_frame]) (mirror_of_lands (postAtCursor_lands kind notify a s)
        (not_entry_run (by omega)) (not_entry_run (by omega)))
    board := fun s => of_kept (publishBoard_slotListKept s) }

/-- Wherever a command changes N, the mirror shows the new N. -/
theorem exec_mirror_of_n_changed {c : Instr} {s t : State} (he : exec c s = .next t) (hn : t.slot.n ≠ s.slot.n) :
    MirrorShowsN t := by
  have k : KeptByEvents (fun _ => True) fun u => u.slot.n = s.slot.n ∨ MirrorShowsN u :=
    keptByEvents_of_slotCounter
      (fun u v h1 h2 => Or.imp (fun h => h1.trans h) fun h => (h2.trans h).trans h1.symm)
      (fun _ u => .inr (powerOnReset_mirrorShowsN u)) (fun _ u => .inr (warmReset_mirrorShowsN u))
      (fun _ p u => .inr (activatePrepared_mirrorShowsN p u)) (fun _ u => .inr (activateOrphan_mirrorShowsN u))
      (fun _ n code m w u => .inr (setupSlots_mirrorShowsN n code m w u))
  exact (k.command (fun _ _ => trivial) (.inl rfl) he).resolve_left hn

/-- A command that raises no reset, no activation and no directive leaves N. -/
theorem exec_n_of_no_mover {c : Instr} {s t : State} (he : exec c s = .next t) (hp : raises c .powerOn = false)
    (hw : raises c .warm = false) (ha : raises c .activate = false) (hd : raises c .directive = false) :
    t.slot.n = s.slot.n := by
  have k : KeptByEvents (fun x => raises c x = true) fun u => u.slot.n = s.slot.n :=
    keptByEvents_of_slotCounter (fun u v h1 _ h => h1.trans h) (fun h => by simp [hp] at h) (fun h => by simp [hw] at h)
      (fun h => by simp [ha] at h) (fun h => by simp [ha] at h) (fun h => by simp [hd] at h)
  exact k.command (fun _ h => h) rfl he

/-! ### Serving the directive list -/

/-- A SLOT_SETUP stands POSTED in the list. -/
def SlotSetupPosted (s : State) : Prop :=
  ∃ e, entryState s.xm e = 1 ∧ entryKind s.xm e = 1

/-- What the part makes of the directive list without the host: no entry changes its kind, none becomes POSTED, and N
stays unless a SLOT_SETUP stands POSTED at the start. -/
structure ListServed (s t : State) : Prop where
  kind : ∀ e, entryKind t.xm e = entryKind s.xm e
  posted : ∀ e, entryState t.xm e = 1 → entryState s.xm e = 1
  n : t.slot.n = s.slot.n ∨ SlotSetupPosted s

theorem SlotListKept.served {s t : State} (h : SlotListKept s t) : ListServed s t :=
  ⟨fun e => (h.entry e).2, fun e he => (h.entry e).1 ▸ he, .inl h.n⟩

namespace ListServed

theorem refl (s : State) : ListServed s s := (SlotListKept.refl s).served

theorem of_xm_eq {s t : State} (hn : t.slot.n = s.slot.n) (hm : t.xm = s.xm) : ListServed s t :=
  (SlotListKept.of_xm_eq hn hm).served

theorem trans {s t u : State} (h : ListServed s t) (g : ListServed t u) : ListServed s u := by
  refine ⟨fun e => (g.kind e).trans (h.kind e), fun e he => h.posted e (g.posted e he), ?_⟩
  rcases g.n with gn | ⟨e, he, hk⟩
  · exact h.n.imp_left gn.trans
  · exact .inr ⟨e, h.posted e he, h.kind e ▸ hk⟩

/-- An event that serves the list, where a reset does not hold it off. -/
theorem unlessHeld {f : State → State} (hf : ∀ u, ListServed u (f u)) (s : State) :
    ListServed s (Machine.unlessHeld f s) :=
  KeptByEvents.held (inv := ListServed s) (fun u h => h.trans (hf u)) (refl s)

/-- An event that serves the list, where it comes about. -/
theorem whenever {f : State → State} (hf : ∀ u, ListServed u (f u)) (b : Bool) (s : State) :
    ListServed s (if b = true then f s else s) :=
  KeptByEvents.whenever (inv := ListServed s) (fun u h => h.trans (hf u)) b (refl s)

end ListServed

theorem putEntry_served {st : Byte} (h : st ≠ 1) (e : BitVec 5) (why : ResultCode) (data : List Byte) (s : State) :
    ListServed s (putEntry e st why data s) := by
  refine ⟨fun f => putEntry_keeps e f 1 le_rfl (by omega) (by omega) st why data s, fun f hf => ?_, .inl rfl⟩
  rw [entryState_putEntry] at hf
  split at hf
  · exact absurd hf h
  · exact hf

theorem completeEntry_served {st : Byte} (h : st ≠ 1) (why : ResultCode) (data : List Byte) (notify : Bool)
    (s : State) : ListServed s (completeEntry st why data notify s) := by
  refine (putEntry_served h s.directives.cursor why data s).trans (SlotListKept.served ?_)
  unfold completeEntry
  dsimp only
  rw [setCauseIf_frame]
  exact .of_lands (p := fun x => x = 6) rfl (.store fun x h1 h2 => by simp at h2; omega) fun x hx => by omega

theorem directives_served (d : DirectiveProcessor) (s : State) : ListServed s { s with directives := d } :=
  .of_xm_eq rfl rfl

/-- The state that an answer carries. -/
def Taken.after : Taken → State
  | .done s _ => s
  | .failed s _ _ => s
  | .active s _ _ => s

theorem settle_served (notify : Bool) {s : State} {t : Taken} (h : ListServed s t.after) :
    ListServed s (settle notify t) := by
  cases t with
  | done u data => exact h.trans (completeEntry_served (by decide) .ok data notify u)
  | failed u why data => exact h.trans (completeEntry_served (by decide) why data notify u)
  | active u kind timer =>
    exact h.trans ((putEntry_served (st := 2) (by decide) u.directives.cursor .ok [] u).trans (directives_served _ _))

/-! ### The takes -/

/-- SLOT_SETUP writes the mirror alone, below every entry. -/
theorem setupSlots_served (n : Half) (code : Fin 4) (m w : Nat) {s : State} (h : SlotSetupPosted s) :
    ListServed s (setupSlots n code m w s) := by
  have hx : ∀ x, 0x0800 ≤ x → memRead (setupSlots n code m w s).xm x = memRead s.xm x := fun x hx =>
    memRead_memStore_of_outside (.inr (by rw [le16_length]; omega))
  have ha : ∀ e, 0x0800 ≤ entryAddr e := fun e => (entryAddr_bounds e).1
  exact ⟨fun e => hx _ (Nat.le_succ_of_le (ha e)), fun e he => (hx _ (ha e)).symm.trans he, .inr h⟩

theorem takeSlotSetup_served (a : List Byte) {s : State} (h : SlotSetupPosted s) :
    ListServed s (takeSlotSetup a s).after := by
  unfold takeSlotSetup badArgument
  split
  · split
    · exact .refl s
    · split
      · exact .refl s
      · exact setupSlots_served _ _ _ _ h
  · exact .refl s

theorem takeChainSetup_served (a : List Byte) (s : State) : ListServed s (takeChainSetup a s).after := by
  refine .of_xm_eq ?_ ?_ <;> (unfold takeChainSetup badArgument; split_ifs <;> rfl)

theorem takeConditionSetup_served (a : List Byte) (s : State) : ListServed s (takeConditionSetup a s).after := by
  unfold takeConditionSetup badArgument
  split
  · dsimp only
    split
    · exact .refl s
    · exact (replaceEntry_slotListKept _ _ s).served
  · exact .refl s

theorem takeSupplySetup_served (a : List Byte) (s : State) : ListServed s (takeSupplySetup a s).after := by
  refine .of_xm_eq ?_ ?_ <;> (unfold takeSupplySetup badArgument; split_ifs <;> rfl)

theorem takeSensorSetup_served (a : List Byte) (s : State) : ListServed s (takeSensorSetup a s).after := by
  refine .of_xm_eq ?_ ?_ <;> (unfold takeSensorSetup badArgument; split_ifs <;> rfl)

theorem takeProfileLoad_served (a : List Byte) (s : State) : ListServed s (takeProfileLoad a s).after := by
  refine .of_xm_eq ?_ ?_ <;> (unfold takeProfileLoad badArgument; split_ifs <;> rfl)

theorem takeProfileDrop_served (a : List Byte) (s : State) : ListServed s (takeProfileDrop a s).after := by
  refine .of_xm_eq ?_ ?_ <;> (unfold takeProfileDrop badArgument; split_ifs <;> rfl)

theorem takeCaptureStart_served (a : List Byte) (s : State) : ListServed s (takeCaptureStart a s).after := by
  unfold takeCaptureStart badArgument
  dsimp only
  split
  · exact .refl s
  · split
    · exact .refl s
    · refine .of_xm_eq ?_ ?_ <;> (split_ifs <;> rfl)

theorem takeCaptureStop_served (s : State) : ListServed s (takeCaptureStop s).after := by
  refine .of_xm_eq ?_ ?_ <;> (unfold takeCaptureStop; split_ifs <;> rfl)

theorem takeReleaseLatch_served (a : List Byte) (s : State) : ListServed s (takeReleaseLatch a s).after := by
  unfold takeReleaseLatch badArgument
  split
  · dsimp only
    split
    · exact .refl s
    · split
      · exact .refl s
      · exact (releaseLatch_slotListKept _ s).served
  · exact .refl s

theorem takePause_served (a : List Byte) (s : State) : ListServed s (takePause a s).after := by
  refine .of_xm_eq ?_ ?_ <;> (unfold takePause badArgument; split_ifs <;> rfl)

theorem discardRun_served (fuel : Nat) (e : BitVec 5) (s : State) : ListServed s (discardRun fuel e s).1 := by
  induction fuel generalizing e s with
  | zero => exact .refl s
  | succ fuel ih =>
    unfold discardRun
    split
    · exact (putEntry_served (by decide) e .ok [] s).trans (ih _ _)
    · exact .refl s

/-- A kind handed to its owning block: the block of SLOT_SETUP alone moves N. -/
theorem takeKind_served {kind : Nat} (a : List Byte) {s : State} (h : kind = 1 → SlotSetupPosted s) :
    ListServed s (takeKind kind a s).after := by
  unfold takeKind
  split
  · exact takeSlotSetup_served a (h rfl)
  · exact takeChainSetup_served a s
  · exact takeConditionSetup_served a s
  · exact takeSupplySetup_served a s
  · exact takeSensorSetup_served a s
  · exact takeProfileLoad_served a s
  · exact takeProfileDrop_served a s
  · exact .of_xm_eq rfl rfl
  · exact .of_xm_eq rfl rfl
  · exact takeCaptureStart_served a s
  · exact takeCaptureStop_served s
  · exact takeReleaseLatch_served a s
  · exact takePause_served a s
  · exact discardRun_served 31 _ s
  · exact .refl s

theorem takeDirective_served {kind : Byte} (a : List Byte) {s : State} (h : kind = 1 → SlotSetupPosted s) :
    ListServed s (takeDirective kind a s).after := by
  unfold takeDirective
  split
  · exact .refl s
  · split
    · exact takeKind_served a fun hk => h (BitVec.eq_of_toNat_eq hk)
    · exact .refl s

theorem takeAtCursor_served {s : State} (h : entryState s.xm s.directives.cursor = 1) :
    ListServed s (takeAtCursor s) :=
  settle_served _ (takeDirective_served _ fun hk => ⟨s.directives.cursor, h, hk⟩)

/-! ### The scan and the completions -/

theorem scanFrom_served (fuel : Nat) (s : State) : ListServed s (scanFrom fuel s) := by
  induction fuel generalizing s with
  | zero => exact .refl s
  | succ fuel ih =>
    unfold scanFrom
    split
    · next h => exact (takeAtCursor_served h.2).trans (ih _)
    · exact .refl s

theorem scan_served (s : State) : ListServed s (scan s) := by
  unfold scan
  split
  · exact .refl s
  · exact scanFrom_served 32 s

theorem completeActive_served (a : ActiveDirective) {s : State} {t : Taken} (h : ListServed s t.after) :
    ListServed s (completeActive a t) :=
  (settle_served a.notify h).trans (scan_served _)

theorem answerTimed_served (kind : ActiveKind) (s : State) : ListServed s (answerTimed kind s).after := by
  cases kind with
  | profileLoad j =>
    simp only [answerTimed, answerLoad]
    split
    · exact (finishLoad_slotListKept s).served
    · exact (finishLoad_slotListKept s).served
  | calibrate =>
    have h : SlotListKept s (beginSettling (applyCalibration (calibrationOf s.sensors.measurements) s)) :=
      (applyCalibration_slotListKept _ s).trans (.of_xm_eq rfl rfl)
    simp only [answerTimed, answerCalibrate]
    split
    · exact h.served
    · exact h.served
  | selftest => exact .of_xm_eq rfl rfl
  | captureStop => exact .refl s
  | pause n => exact .refl s

theorem stepMeasurement_served (kind : ActiveKind) (m : Measurement) (s : State) :
    ListServed s (stepMeasurement kind m s) := by
  cases kind <;> exact .of_xm_eq rfl rfl

theorem directiveStep_served (m : Measurement) (s : State) : ListServed s (directiveStep m s) := by
  unfold directiveStep
  split
  · exact scan_served s
  · next a _ =>
    split
    · exact .refl s
    · have h := stepMeasurement_served a.kind m s
      dsimp only
      split
      · exact h.trans (completeActive_served a (answerTimed_served a.kind _))
      · exact h.trans (.of_xm_eq rfl rfl)

theorem nudgeWrite_served (s : State) : ListServed s (nudgeWrite s) := by
  unfold nudgeWrite
  split
  · exact .refl s
  · exact scan_served s

theorem burstCompleted_served (s : State) : ListServed s (burstCompleted s) := by
  unfold burstCompleted
  split
  · exact .refl s
  · next b _ =>
    have h := (burst_slotListKept b s).served
    unfold afterBurst
    dsimp only
    split
    · split
      · exact h.trans (completeActive_served _ (t := .done (stopCapture _) []) (stopCapture_slotListKept _).served)
      · exact h
    · exact h

theorem enterStopped_served (ack : Bool) (s : State) : ListServed s (enterStopped ack s) := by
  unfold enterStopped
  split
  · split
    · split
      · exact (enterStoppedIfQuiet_slotListKept s).served
      · exact burstCompleted_served s
    · split
      · exact (transferCompleted_slotListKept ack s).served
      · exact .refl s
  · exact .refl s

/-! ### The register writes of a transaction -/

theorem writeGctl_served {v : Half} (hv : v.getLsbD 1 = false) (s : State) : ListServed s (writeGctl v s) := by
  unfold writeGctl
  rw [if_neg (Bool.eq_false_iff.mp hv)]
  split
  · exact (writeRun1_slotListKept s).served
  · exact (writeRun0_slotListKept s).served

theorem writeHalf_served {write : Half → State → State} (hw : ∀ v u, ListServed u (write v u)) (v : Option Half)
    (s : State) : ListServed s (writeHalf write v s) :=
  KeptByEvents.writeHalf (inv := ListServed s) (fun v u h => h.trans (hw v u)) v (.refl s)

theorem writeUpperRegisters_served (start : Half) (data : List Byte) (s : State) :
    ListServed s (writeUpperRegisters start data s) := by
  have h := (writeHalf_served (fun v u => (writeNcause_slotListKept v u).served) (halfAt start data 0x4006) s).trans
    (writeHalf_served (write := writeNmask) (fun _ _ => .of_xm_eq rfl rfl) (halfAt start data 0x4008) _)
  unfold writeUpperRegisters
  dsimp only
  split
  · exact h.trans (nudgeWrite_served _)
  · exact h

/-- The register writes of a transaction without a warm reset. -/
theorem writeRegisters_served {start : Half} {data : List Byte}
    (hw : ∀ v, halfAt start data 0x4002 = some v → v.getLsbD 1 = false) (s : State) :
    ListServed s (writeRegisters start data s) := by
  unfold writeRegisters
  split
  · next v hv =>
    have h := writeGctl_served (hw v hv) s
    split
    · exact h
    · exact h.trans (writeUpperRegisters_served start data _)
  · exact writeUpperRegisters_served start data s

/-! ### The commands that run directives -/

/-- The state at which a command's own posts have landed: N as before, and POSTED stands only in entries that a scan
within the command may come upon. -/
structure PostsLanded (c : Instr) (s u : State) : Prop where
  n : u.slot.n = s.slot.n
  posted : ∀ e, entryState u.xm e = 1 → MayBeTaken c s e

/-- A command that posts nothing. -/
theorem PostsLanded.none (c : Instr) (s : State) : PostsLanded c s s :=
  ⟨rfl, fun _ he => .inl he⟩

theorem entryState_postAtCursor_other {e : BitVec 5} {s : State} (h : e ≠ s.directives.cursor) (kind : Byte)
    (notify : Bool) (a : List Byte) : entryState (postAtCursor kind notify a s).xm e = entryState s.xm e := by
  refine (postAtCursor_lands kind notify a s).kept _ ?_
  have hn : e.toNat ≠ s.directives.cursor.toNat := fun hh => h (BitVec.eq_of_toNat_eq hh)
  unfold InRun entryAddr
  omega

/-- A directive row posts at the cursor, unless the entry there is ACTIVE. -/
theorem postAtCursor_postsLanded {c : Instr} {s : State} (hc : ∀ e, postsAt c s e = decide (e = s.directives.cursor))
    (kind : Byte) (notify : Bool) (a : List Byte) : PostsLanded c s (postAtCursor kind notify a (endReading s)) := by
  refine ⟨by rw [postAtCursor_frame]; rfl, fun e he => ?_⟩
  by_cases h2 : entryState s.xm s.directives.cursor = 2
  · have hs : postAtCursor kind notify a (endReading s) = endReading s := if_pos h2
    rw [hs] at he
    exact .inl he
  · by_cases h : e = s.directives.cursor
    · exact .inr ⟨by rw [hc, h, decide_eq_true rfl], h ▸ h2⟩
    · rw [entryState_postAtCursor_other (s := endReading s) h] at he
      exact .inl he

/-- What a host write leaves in the state byte of an entry: POSTED only where it stood or where a byte of the write is
POSTED and the entry not ACTIVE. -/
theorem entryState_hostWrite {m : Memory} {start : Half} {data : List Byte} (hl : data.length ≤ 65536) {e : BitVec 5}
    (he : entryState (hostWrite m start data) e = 1) :
    entryState m e = 1 ∨
      (byteAt start data (BitVec.ofNat 16 (entryAddr e)) = some 1 ∧ entryState m e ≠ 2) := by
  rw [entryState, memRead_hostWrite data m start hl] at he
  split at he
  · next b hb =>
    split at he
    · next h =>
      have hlands := hostByteLands_entry m e 0 (by omega) b
      rw [Nat.add_zero, h.2] at hlands
      refine .inr ⟨by rw [byteAt, hb, he], fun h2 => ?_⟩
      rw [if_pos h2] at hlands
      exact absurd hlands Bool.true_eq_false.mp
    · exact .inl he
  · exact .inl he

/-- A write transaction without a warm reset: its bytes land, then its register writes serve the list. -/
theorem writeTransaction_served {c : Instr} {bytes : List Byte} (hw : carriesWarmReset bytes = false) {s : State}
    (hc : ∀ e, postsAt c s e = writesPosted bytes e) :
    ∃ u, PostsLanded c s u ∧ ListServed u (writeTransaction bytes s) := by
  unfold writeTransaction
  split
  · next hi lo data =>
    refine ⟨{ endReading s with xm := hostWrite s.xm (hi ++ lo) (data.take 256) }, ⟨rfl, fun e he => ?_⟩,
      writeRegisters_served (fun v hv => ?_) _⟩
    · have hl : (data.take 256).length ≤ 65536 := by
        rw [List.length_take]
        omega
      exact (entryState_hostWrite hl he).imp_right (And.imp_left fun hb => by rw [hc, writesPosted, hb]; rfl)
    · rwa [carriesWarmReset, hv] at hw
  · exact ⟨s, .none c s, .of_xm_eq rfl rfl⟩

/-- A command that runs directives, without a warm reset: its posts land, then the list is served. -/
theorem exec_directive_served {c : Instr} {s t : State} (he : exec c s = .next t) (hd : raises c .directive = true)
    (hw : raises c .warm = false) : ∃ u, PostsLanded c s u ∧ ListServed u t := by
  have part {t : State} (h : ListServed s t) : ∃ u, PostsLanded c s u ∧ ListServed u t := ⟨s, .none c s, h⟩
  have step (m : Measurement) (b : Bool) := part (.whenever (.unlessHeld (directiveStep_served m)) b s)
  have row (hc : ∀ e, postsAt c s e = decide (e = s.directives.cursor)) (kind : Byte) (notify : Bool)
      (a : List Byte) : ∃ u, PostsLanded c s u ∧ ListServed u (issue kind notify a s) := by
    unfold issue unlessHeld
    split
    · exact part (.refl s)
    · exact ⟨_, postAtCursor_postsLanded hc kind notify a, nudgeWrite_served _⟩
  have write (bytes : List Byte) (hb : carriesWarmReset bytes = false)
      (hc : ∀ e, postsAt c s e = writesPosted bytes e) :
      ∃ u, PostsLanded c s u ∧ ListServed u (unlessHeld (writeTransaction bytes) s) := by
    unfold unlessHeld
    split
    · exact part (.refl s)
    · exact writeTransaction_served hb hc
  cases c <;> injection he with he <;> subst he
  case enterStopped ack => exact part (.unlessHeld (enterStopped_served ack) s)
  case directiveStepEvent m => exact part (.unlessHeld (directiveStep_served m) s)
  case nudge =>
    exact part (.unlessHeld (fun u => .trans (t := endReading u) (.of_xm_eq rfl rfl) (nudgeWrite_served _)) s)
  case profileLoadCompletion | pauseCompletion => exact step noMeasurement _
  case calibrateCompletion m | selftestCompletion m => exact step m _
  case burstCompletion => exact part (.unlessHeld burstCompleted_served s)
  case spiWrite bytes | spiQuadWrite bytes => exact write bytes (by simpa [raises] using hw) fun _ => rfl
  case slotSetup | chainSetup | conditionSetup | supplySetup | sensorSetup | profileLoad | profileDrop | calibrate |
      selftest | captureStart | captureStop | releaseLatch | pause | clearPending =>
    exact row (fun _ => rfl) _ _ _
  all_goals exact absurd hd Bool.false_ne_true

/-- N after a command that runs directives: as before where no entry that a scan may come upon is a SLOT_SETUP. -/
theorem exec_n_of_no_slotSetup {c : Instr} {s t : State} (he : exec c s = .next t) (hd : raises c .directive = true)
    (hw : raises c .warm = false) (hk : ∀ e, MayBeTaken c s e → entryKind t.xm e ≠ 1) : t.slot.n = s.slot.n := by
  obtain ⟨u, hu, hl⟩ := exec_directive_served he hd hw
  rcases hl.n with hn | ⟨e, h1, h2⟩
  · exact hn.trans hu.n
  · exact absurd ((hl.kind e).trans h2) (hk e (hu.posted e h1))

/-! ### The strobe and the resets -/

theorem exec_slota_running {s : State} (hh : resetHeld s = false) (hr : s.governor.state = .running) :
    exec .slota s = .next (activate s) := by
  show Host.Outcome.next (unlessHeld (inRunning activate) s) = _
  rw [unlessHeld, if_neg (by simp [hh]), inRunning, if_pos hr]

/-- Outside RUNNING a strobe changes nothing (R4). -/
theorem strobe_not_running {s : State} (hr : s.governor.state ≠ .running) (f : State → State) :
    unlessHeld (inRunning f) s = s := by
  rw [unlessHeld, inRunning, if_neg hr, ite_self]

/-- Outside RUNNING no command brings an activation about (R4). -/
theorem exec_activate_not_running {c : Instr} {s t : State} (he : exec c s = .next t)
    (ha : raises c .activate = true) (hr : s.governor.state ≠ .running) : t = s := by
  cases c
  case slota =>
    injection he with he
    exact he.symm.trans (strobe_not_running hr activate)
  case driveLinkCut c | driveLinkCutClear c =>
    injection he with he
    rw [← he, strobe_not_running hr, ite_self]
  case spiWrite | spiQuadWrite => simp [raises] at ha
  all_goals exact absurd ha Bool.false_ne_true

theorem exec_warmReset_n {s t : State} (he : exec .warmReset s = .next t) (hh : resetHeld s = false) :
    t.slot.n = 0 := by
  injection he with he
  subst he
  rw [registerTransaction, unlessHeld, if_neg (by simp [hh])]
  exact warmReset_n (endReading s)

/-- Settles O16: the mirror by induction over the part's events, N by the serving of the directive list. -/
theorem slotCounterChangesOnlyWhereItMay : Obligations.SlotCounterChangesOnlyWhereItMay := by
  refine ⟨fun s hh hr => ⟨_, exec_slota_running hh hr, activate_n s⟩, ?_,
    fun c s t he hn => exec_mirror_of_n_changed he hn, fun s t he => ?_, fun s t he hh => exec_warmReset_n he hh⟩
  · intro c s t he hp hw hk ha
    by_cases hd : raises c .directive = true
    · exact exec_n_of_no_slotSetup he hd hw (hk hd)
    · by_cases hact : raises c .activate = true
      · rw [exec_activate_not_running he hact (ha hact)]
      · exact exec_n_of_no_mover he hp hw (Bool.eq_false_of_not_eq_true hact) (Bool.eq_false_of_not_eq_true hd)
  · injection he with he
    subst he
    rfl

end Sys2Proof.Machine
end

section
/-! The curve lookup (R32) and the thermal ceiling (R34 to R37): the value of a curve on each of its intervals, its
monotony on a validated image, and what the ceiling's inverse search finds. -/

namespace Sys2Proof.Machine

/-! ### The points of a curve and between them (R32) -/

theorem vector_getD_of_lt {α : Type} {n i : Nat} (v : Vector α n) (h : i < n) (a : α) : v.getD i a = v[i] := by
  simp [Vector.getD, h]

theorem curveAt_of_le (v : Vector Nat 25) {p : Int} (h : p ≤ -80) : curveAt v p = v[0] := by
  rw [curveAt, if_pos h, vector_getD_of_lt v (by omega)]

theorem curveAt_of_ge (v : Vector Nat 25) {p : Int} (h : 112 ≤ p) : curveAt v p = v[24] := by
  rw [curveAt, if_neg (by omega), if_pos h, vector_getD_of_lt v (by omega)]

/-- Above point 0 and below point 24 the lookup interpolates from the point at or below the power. -/
theorem curveAt_interpolates (v : Vector Nat 25) {i r : Nat} (hi : i < 24) (hr : r < 8) (h0 : 0 < i ∨ 0 < r) :
    curveAt v (8 * i - 80 + r) = (v[i] + ((v[i + 1] - v[i] : Int) * r + 4) / 8).toNat := by
  have hq : (8 * (i : Int) - 80 + r + 80).toNat = 8 * i + r := by omega
  have hdiv : (8 * i + r) / 8 = i := by omega
  have hmod : (8 * i + r) % 8 = r := by omega
  rw [curveAt, if_neg (by omega), if_neg (by omega)]
  simp only [hq, hdiv, hmod]
  rw [vector_getD_of_lt v (by omega), vector_getD_of_lt v (by omega)]

theorem curveAt_point (v : Vector Nat 25) {i : Nat} (hi : i < 25) : curveAt v (8 * i - 80) = v[i] := by
  rcases Nat.eq_zero_or_pos i with rfl | hpos
  · exact curveAt_of_le v (by omega)
  · rcases Nat.lt_succ_iff_lt_or_eq.mp hi with h | rfl
    · have := curveAt_interpolates v (r := 0) h (by omega) (.inl hpos)
      simpa using this
    · exact curveAt_of_ge v (by omega)

/-- One formula for a whole interval, both of its end points included. -/
theorem curveAt_interval (v : Vector Nat 25) {i r : Nat} (hi : i < 24) (hr : r ≤ 8) :
    curveAt v (8 * i - 80 + r) = (v[i] + ((v[i + 1] - v[i] : Int) * r + 4) / 8).toNat := by
  rcases Nat.eq_zero_or_pos r with rfl | hpos
  · simpa using curveAt_point v (i := i) (by omega)
  · rcases lt_or_eq_of_le hr with h | rfl
    · exact curveAt_interpolates v hi h (.inr hpos)
    · have hp : (8 * (i : Int) - 80 + (8 : Nat)) = 8 * ((i + 1 : Nat) : Int) - 80 := by omega
      rw [hp, curveAt_point v (by omega)]
      omega

/-! ### Monotony of the curves of a validated image (R32, R85) -/

/-- Each point of the curve is at least the one before it. -/
def PointsRise (v : Vector Nat 25) : Prop :=
  ∀ i (h : i < 24), v[i] ≤ v[i + 1]

/-- The rounding is monotone in r, so the curve does not fall within an interval. -/
theorem curveAt_interval_le_succ {v : Vector Nat 25} (hv : PointsRise v) {i r : Nat} (hi : i < 24) (hr : r < 8) :
    curveAt v (8 * i - 80 + r) ≤ curveAt v (8 * i - 80 + (r + 1 : Nat)) := by
  have hrise : (v[i] : Int) ≤ v[i + 1] := by exact_mod_cast hv i hi
  have hmul : (v[i + 1] - v[i] : Int) * r ≤ (v[i + 1] - v[i] : Int) * (r + 1 : Nat) :=
    mul_le_mul_of_nonneg_left (by omega) (by omega)
  rw [curveAt_interval v hi hr.le, curveAt_interval v hi (r := r + 1) hr]
  omega

theorem curveAt_monotone {v : Vector Nat 25} (hv : PointsRise v) : Monotone (curveAt v) := by
  refine monotone_int_of_le_succ fun p => ?_
  rcases lt_or_ge p (-80) with hlow | hlow
  · rw [curveAt_of_le v (by omega), curveAt_of_le v (by omega)]
  · rcases lt_or_ge p 112 with hhigh | hhigh
    · obtain ⟨q, rfl⟩ : ∃ q : Nat, p = q - 80 := ⟨(p + 80).toNat, by omega⟩
      have hstep := curveAt_interval_le_succ hv (i := q / 8) (r := q % 8) (by omega) (by omega)
      have hq : 8 * ((q / 8 : Nat) : Int) - 80 + (q % 8 : Nat) = q - 80 := by omega
      have hq' : 8 * ((q / 8 : Nat) : Int) - 80 + (q % 8 + 1 : Nat) = q - 80 + 1 := by omega
      rwa [hq, hq'] at hstep
    · rw [curveAt_of_ge v (by omega), curveAt_of_ge v (by omega)]

theorem curveAt_le_last {v : Vector Nat 25} (hv : PointsRise v) (p : Int) : curveAt v p ≤ v[24] := by
  calc curveAt v p ≤ curveAt v (max p 112) := curveAt_monotone hv (le_max_left p 112)
    _ = v[24] := curveAt_of_ge v (le_max_right p 112)

theorem pointFault_eq_none_iff {im : ProfileImage} {i : Nat} (hi : i < 25) :
    pointFault im i = none ↔ im.currents[i] ≤ 8000 ∧
      (i ≠ 0 → im.currents[i - 1] ≤ im.currents[i] ∧ im.dissipations[i - 1] ≤ im.dissipations[i]) := by
  have hi' : i - 1 < 25 := by omega
  simp only [pointFault, vector_getD_of_lt _ hi, vector_getD_of_lt _ hi']
  split_ifs <;> simp <;> omega

theorem valid_pointFault {im : ProfileImage} (h : im.valid = true) {i : Nat} (hi : i < 25) : pointFault im i = none := by
  simp only [ProfileImage.valid, Bool.and_eq_true, Option.isNone_iff_eq_none, List.findSome?_eq_none_iff] at h
  exact h.2 i (List.mem_range.mpr hi)

theorem valid_currents_le {im : ProfileImage} (h : im.valid = true) {i : Nat} (hi : i < 25) : im.currents[i] ≤ 8000 :=
  ((pointFault_eq_none_iff hi).mp (valid_pointFault h hi)).1

theorem valid_points_rise {im : ProfileImage} (h : im.valid = true) :
    PointsRise im.currents ∧ PointsRise im.dissipations := by
  have rise (i : Nat) (hi : i < 24) :=
    ((pointFault_eq_none_iff (by omega)).mp (valid_pointFault h (i := i + 1) (by omega))).2 (by omega)
  exact ⟨fun i hi => (rise i hi).1, fun i hi => (rise i hi).2⟩

/-- Settles O10: the formula of an interval, and the monotony that it gives curves whose points rise. -/
theorem curveLookupInterpolates : Obligations.CurveLookupInterpolates := by
  refine ⟨fun v p => curveAt_of_le v, fun v p => curveAt_of_ge v, fun v i r h0 hrise => ?_,
    fun v i => curveAt_point v i.isLt, fun im h p q hpq => ?_, fun im h p => ?_⟩
  · have hmul : 0 ≤ (v[i.val + 1] - v[i.val] : Int) * r.val := mul_nonneg (by omega) (by omega)
    rw [curveAt_interpolates v i.isLt r.isLt h0]
    omega
  · obtain ⟨hc, hd⟩ := valid_points_rise h
    exact ⟨curveAt_monotone hc hpq, curveAt_monotone hd hpq⟩
  · obtain ⟨hc, hd⟩ := valid_points_rise h
    exact ⟨curveAt_le_last hc p, curveAt_le_last hd p, (curveAt_le_last hc p).trans (valid_currents_le h (by omega))⟩

/-! ### The allowed target rise and the dissipation allowance (R34, R35) -/

/-- `ceilDiv a b` is the least multiplier of b that reaches a. -/
theorem ceilDiv_spec (a : Int) {b : Int} (hb : 0 < b) : a ≤ ceilDiv a b * b ∧ (ceilDiv a b - 1) * b < a := by
  have hlow := Int.ediv_mul_le (-a) hb.ne'
  have hhigh := Int.lt_ediv_add_one_mul_self (-a) hb
  unfold ceilDiv
  constructor <;> linarith

theorem allowedTarget_of_le {h x : Int} (hx : x ≤ h) (k : Int) :
    allowedTarget h x k = clamp (x + ((h - x) * 65536) / k) 0 1048575 := by
  rw [allowedTarget, if_pos hx]

theorem allowedTarget_of_lt {h x : Int} (hx : h < x) (k : Int) :
    allowedTarget h x k = clamp (x - ceilDiv ((x - h) * 65536) k) 0 1048575 := by
  rw [allowedTarget, if_neg (by omega)]

theorem dissipationAllowance_of_nonneg {target r : Int} (ht : 0 ≤ target) (hr : 0 < r) :
    (dissipationAllowance target r : Int) = min ((target * 1000) / (r * 64)) 65535 := by
  have hdiv : 0 ≤ (target * 1000) / (r * 64) := Int.ediv_nonneg (by omega) (by omega)
  rw [dissipationAllowance, Int.toNat_of_nonneg (by omega)]

theorem dissipationAllowance_zero (r : Int) : dissipationAllowance 0 r = 0 := by
  simp [dissipationAllowance]

/-! ### The inverse search of the ceiling (R36) -/

/-- What the search finds fits, and no searched power above it does. -/
theorem largestFit_some {d : Vector Nat 25} {dmax n : Nat} {p : Int} (h : largestFit d dmax n = some p) :
    curveAt d p ≤ dmax ∧ ∀ q : Int, p < q → q ≤ n - 80 → dmax < curveAt d q := by
  induction n with
  | zero =>
    obtain ⟨hfit, rfl⟩ : curveAt d (-80) ≤ dmax ∧ -80 = p := by simpa [largestFit] using h
    exact ⟨hfit, fun q _ _ => by omega⟩
  | succ n ih =>
    rw [largestFit] at h
    split at h
    · next hfit =>
      cases h
      exact ⟨hfit, fun q _ _ => by omega⟩
    · next hfit =>
      obtain ⟨hp, habove⟩ := ih h
      refine ⟨hp, fun q hpq hq => ?_⟩
      rcases lt_or_eq_of_le hq with hlt | rfl
      · exact habove q hpq (by omega)
      · exact Nat.lt_of_not_le hfit

/-- The search comes back empty exactly where no searched power fits. -/
theorem largestFit_eq_none_iff {d : Vector Nat 25} {dmax n : Nat} :
    largestFit d dmax n = none ↔ ∀ q : Int, -80 ≤ q → q ≤ n - 80 → dmax < curveAt d q := by
  refine ⟨fun h => ?_, fun h => ?_⟩
  · induction n with
    | zero =>
      intro q hlow hhigh
      obtain rfl : q = -80 := by omega
      simpa [largestFit] using h
    | succ n ih =>
      rw [largestFit] at h
      split at h
      · cases h
      · next hfit =>
        intro q hlow hhigh
        rcases lt_or_eq_of_le hhigh with hlt | rfl
        · exact ih h q hlow (by omega)
        · exact Nat.lt_of_not_le hfit
  · cases hp : largestFit d dmax n with
    | none => rfl
    | some p =>
      obtain ⟨hlow, hhigh⟩ := largestFit_range hp
      exact absurd (largestFit_some hp).1 (Nat.not_le_of_lt (h p hlow hhigh))

theorem thermalCeiling_of_fits {d : Vector Nat 25} {dmax : Nat} (h : curveAt d 112 ≤ dmax) :
    thermalCeiling d dmax = some 120 := by
  rw [thermalCeiling, if_pos h]

theorem thermalCeiling_of_lt {d : Vector Nat 25} {dmax : Nat} (h : dmax < curveAt d 112) :
    thermalCeiling d dmax = largestFit d dmax 191 := by
  rw [thermalCeiling, if_neg (by omega)]

/-- The ceiling of a curve that does not fit whole: the largest power of -80 to 111 that fits. -/
theorem thermalCeiling_largest {d : Vector Nat 25} {dmax : Nat} {p : Int} (h : dmax < curveAt d 112)
    (hp : thermalCeiling d dmax = some p) :
    -80 ≤ p ∧ p ≤ 111 ∧ curveAt d p ≤ dmax ∧ ∀ q : Int, p < q → q ≤ 111 → dmax < curveAt d q := by
  rw [thermalCeiling_of_lt h] at hp
  obtain ⟨hlow, hhigh⟩ := largestFit_range hp
  obtain ⟨hfit, habove⟩ := largestFit_some hp
  exact ⟨hlow, by omega, hfit, fun q hpq hq => habove q hpq (by omega)⟩

/-- Where point 0 fits, a ceiling is found. -/
theorem exists_thermalCeiling {d : Vector Nat 25} {dmax : Nat} (h : dmax < curveAt d 112)
    (h0 : curveAt d (-80) ≤ dmax) : ∃ p, thermalCeiling d dmax = some p := by
  rw [thermalCeiling_of_lt h]
  refine Option.ne_none_iff_exists'.mp fun hnone => ?_
  have hlt := largestFit_eq_none_iff.mp hnone (-80) (by omega) (by omega)
  omega

/-- Where point 0 does not fit, no power does. -/
theorem thermalCeiling_eq_none {d : Vector Nat 25} (hd : PointsRise d) {dmax : Nat} (h : dmax < curveAt d (-80)) :
    thermalCeiling d dmax = none := by
  have habove {q : Int} (hq : -80 ≤ q) : dmax < curveAt d q := h.trans_le (curveAt_monotone hd hq)
  rw [thermalCeiling_of_lt (habove (by omega))]
  exact largestFit_eq_none_iff.mpr fun q hq _ => habove hq

/-- The powers at or below the ceiling are exactly those that fit. -/
theorem fits_iff_le_thermalCeiling {d : Vector Nat 25} (hd : PointsRise d) {dmax : Nat} {p : Int}
    (hp : thermalCeiling d dmax = some p) {q : Int} (hq : q ≤ 112) : curveAt d q ≤ dmax ↔ q ≤ p := by
  have hmono := curveAt_monotone hd
  rcases lt_or_ge dmax (curveAt d 112) with hlt | hfull
  · obtain ⟨_, hp111, hfit, habove⟩ := thermalCeiling_largest hlt hp
    refine ⟨fun hqfit => ?_, fun hqp => (hmono hqp).trans hfit⟩
    by_contra hpq
    rcases lt_or_eq_of_le hq with hq111 | rfl
    · exact absurd hqfit (Nat.not_le_of_lt (habove q (by omega) (by omega)))
    · exact absurd hqfit (Nat.not_le_of_lt hlt)
  · rw [thermalCeiling_of_fits hfull] at hp
    cases hp
    exact iff_of_true ((hmono hq).trans hfull) (by omega)

/-- Settles O11: the clauses of R34 and R35 case by case, and the search of R36 with the monotony of O10. -/
theorem thermalCeilingIsTheLargestFit : Obligations.ThermalCeilingIsTheLargestFit := by
  refine ⟨fun s c im => ⟨fun h => ?_, fun p h => ?_⟩, fun h x k hx _ => allowedTarget_of_le hx k,
    fun h x k hx hk => ⟨_, allowedTarget_of_lt hx k, ceilDiv_spec _ hk⟩,
    fun target r => dissipationAllowance_of_nonneg, fun r _ => dissipationAllowance_zero r,
    fun d dmax => thermalCeiling_of_fits, fun d dmax hlt h0 => ?_,
    fun im hv dmax => thermalCeiling_eq_none (valid_points_rise hv).2,
    fun im hv dmax p hp q _ hq => fits_iff_le_thermalCeiling (valid_points_rise hv).2 hp hq⟩
  · simp only [chainCeiling, h, flooredCeiling]
  · simp only [chainCeiling, h, flooredCeiling]
  · obtain ⟨p, hp⟩ := exists_thermalCeiling hlt h0
    exact ⟨p, hp, thermalCeiling_largest hlt hp⟩

end Sys2Proof.Machine
end

section
/-! The energy accumulator and the thermal step (R66, R74): a chain's record after a step and after an activation, which
commands touch the accumulators at all, and the balance that every run keeps. -/

namespace Sys2Proof.Machine

/-! ### The records after a thermal step (R65) -/

/-- The transmit watch leaves the estimator. -/
theorem thermalStep_thermal (s : State) :
    (thermalStep s).thermal = ⟨s.thermal.steps + 1, s.thermal.chains.mapIdx (stepChain s)⟩ := by
  rw [thermalStep, stepWatch_frame]
  rfl

theorem thermalStep_record (s : State) (c : Chain) :
    (thermalStep s).thermal.chains.get c = stepChain s c (s.thermal.chains.get c) := by
  rw [thermalStep_thermal, PerChain.get_mapIdx]

/-- Without a held reset THERMAL_STEP is a thermal step. -/
theorem exec_thermalStep_record {s t : State} (hh : resetHeld s = false) (he : exec .thermalStep s = .next t)
    (c : Chain) : t.thermal.chains.get c = stepChain s c (s.thermal.chains.get c) := by
  injection he with he
  rw [← he, unlessHeld, if_neg (by simp [hh]), thermalStep_record]

/-! ### The step power (R66) -/

theorem stepPower_le (e : Nat) : 32 * stepPower e ≤ e := by
  unfold stepPower
  omega

/-- Below saturation of the step power only a fraction of a milliwatt stays behind. -/
theorem sub_stepPower_of_lt {e : Nat} (h : e < 2097152) : e - 32 * stepPower e = e % 32 := by
  unfold stepPower
  omega

/-- A step power that does not reach its limit takes every whole milliwatt. -/
theorem sub_stepPower_lt {e : Nat} (h : stepPower e < 65535) : e - 32 * stepPower e < 32 := by
  unfold stepPower at *
  omega

theorem stepPower_of_lt_32 {e : Nat} (h : e < 32) : stepPower e = 0 := by
  unfold stepPower
  omega

/-- Four slots of 1000 us, each with the charge 8 d, make one step of power d. -/
theorem stepPower_four_slots {d : Nat} (h : d ≤ 65535) : stepPower (4 * (d * 8)) = d := by
  unfold stepPower
  omega

/-- Settles O28: the laws of the step power, at the accumulator of each chain's record. -/
theorem stepPowerIsWholeMilliwatts : Obligations.StepPowerIsWholeMilliwatts := by
  refine ⟨fun s t c hh he => ?_, fun d hd => ?_⟩
  · rw [exec_thermalStep_record hh he]
    refine ⟨rfl, rfl, stepPower_le _, sub_stepPower_of_lt, fun h => ?_⟩
    have hp := stepPower_of_lt_32 h
    exact ⟨hp, by simp only [stepChain, hp, Nat.mul_zero, Nat.sub_zero]⟩
  · rw [stepPower_four_slots hd]
    exact ⟨rfl, by omega⟩

/-! ### The charge of an activation (R13) -/

/-- What ends an activation leaves the estimator, the in-force records and the slot length. -/
theorem activation_end (o : SlotOutcome) (s : State) :
    (settleMutes (advanceSlot (writeOutcome o s))).thermal = s.thermal ∧
      (settleMutes (advanceSlot (writeOutcome o s))).slot.inForce = s.slot.inForce := by
  rw [writeOutcome_frame]
  exact ⟨rfl, rfl⟩

/-- An activation charges every chain by what is then in force on it. -/
theorem activate_thermal (s : State) :
    (activate s).thermal = ⟨s.thermal.steps, s.thermal.chains.mapIdx fun c t =>
      chargeChain (multiplier s.slot.lengthCode) ((activate s).slot.inForce.get c) t⟩ := by
  unfold activate
  split
  · next p _ =>
    obtain ⟨ht, hf⟩ := activation_end (activatedOutcome p s) (chargeAll (bringIntoForce p s))
    rw [activatePrepared, ht, hf]
    rfl
  · obtain ⟨ht, hf⟩ := activation_end (orphanOutcome s) (chargeAll s)
    rw [activateOrphan, ht, hf]
    rfl

/-- A charge that does not saturate the accumulator is added whole. -/
theorem activate_energy {i : Instr} (hi : raises i .activate = true) {s : State} {c : Chain}
    (hfit : (s.thermal.chains.get c).energy + chargeOf c i s (activate s) ≤ 4294967295) :
    ((activate s).thermal.chains.get c).energy =
      (s.thermal.chains.get c).energy + chargeOf c i s (activate s) := by
  have hn : (activate s).slot.n ≠ s.slot.n := by
    rw [activate_n]
    simp
  rw [chargeOf, if_pos ⟨hi, hn⟩] at hfit ⊢
  rw [activate_thermal, PerChain.get_mapIdx, chargeChain]
  cases hf : ((activate s).slot.inForce.get c).force with
  | on r =>
    rw [hf] at hfit
    exact min_eq_right hfit
  | off => rfl
  | muted => rfl

/-! ### The events that move the accumulators -/

/-- A property of the estimator alone, kept by those of the resets, activations and thermal steps that may occur, is kept
by every event. -/
theorem keptByEvents_of_thermal {ok : EventSort → Prop} {inv : State → Prop}
    (kept : ∀ s t : State, t.thermal = s.thermal → inv s → inv t)
    (powerOn : ok .powerOn → ∀ s, inv s → inv (powerOnReset s)) (warm : ok .warm → ∀ s, inv s → inv (warmReset s))
    (activate : ok .activate → ∀ s, inv s → inv (activate s))
    (estimator : ok .thermal → ∀ s, inv s → inv (stepEstimator s)) : KeptByEvents ok inv where
  powerOn := powerOn
  warm := warm
  pins _ s := kept s _ rfl
  prepare _ _ s h _ := kept s _ rfl h
  activatePrepared h p s hs _ hp := by
    simpa only [Machine.activate, hp] using activate h s hs
  activateOrphan h s hs _ hp := by
    simpa only [Machine.activate, hp] using activate h s hs
  transfer ack s := kept s _ (by rw [transferCompleted_frame])
  estimator := estimator
  watch _ s h _ := kept s _ rfl h
  stop _ why stamp s := kept s _ (by rw [requestStop_frame])
  table _ s := kept s _ (by rw [evaluateTable_frame])
  scanDone _ raw s := kept s _ (by rw [scanCompleted_frame])
  setupSlots _ _ _ _ _ s h _ _ _ _ := kept s _ rfl h
  setupChain _ _ _ s h _ _ _ _ _ _ := kept s _ rfl h
  setupCondition _ _ _ _ _ _ _ s h _ := kept s _ (by rw [replaceEntry_frame]) h
  setupSupply _ _ s h _ := kept s _ rfl h
  setupChannel _ _ _ s h _ _ _ _ _ := kept s _ rfl h
  loadTaken _ _ s := kept s _ rfl
  drop _ _ s := kept s _ rfl
  measuring _ _ s h _ _ := kept s _ rfl h
  captureOn _ _ _ _ s h _ _ _ _ _ := kept s _ rfl h
  captureOff _ s := kept s _ rfl
  release _ c s h _ _ := kept s _ (by rw [releaseLatch_frame]) h
  discard _ _ s h _ := kept s _ rfl h
  complete _ state why data notify s h _ := kept s _ (by rw [completeEntry_frame]) h
  active _ _ s h _ _ := kept s _ rfl h
  timer _ _ _ s h _ _ := kept s _ rfl h
  measure _ _ _ s h _ := kept s _ rfl h
  loadDone _ s h _ := kept s _ (by rw [finishLoad_frame]) h
  calibrate _ ms s h _ := kept s _ (by rw [applyCalibration_frame]) h
  settle _ s h _ := kept s _ rfl h
  captureStep atStart s := kept s _ (by rw [captureStep_frame])
  burst b s h _ := kept s _ (by rw [quietAfterBurst_frame, landBurst_frame]) h
  stoppedIfQuiet s := kept s _ (by rw [enterStoppedIfQuiet_frame])
  host _ _ _ s := kept s _ rfl
  reading _ _ s := kept s _ rfl
  ncause v s := kept s _ (by rw [writeNcause_frame])
  nmask _ s := kept s _ rfl
  run1 s := kept s _ (by rw [writeRun1_frame])
  run0 s := kept s _ (by rw [writeRun0_frame])
  post _ kind notify a s := kept s _ (by rw [postAtCursor_frame])
  board s := kept s _ rfl

/-- A warm reset keeps the step counter and the accumulators (R77). -/
theorem warmReset_accumulators (s : State) :
    (warmReset s).thermal.steps = s.thermal.steps ∧
      ∀ c, ((warmReset s).thermal.chains.get c).energy = (s.thermal.chains.get c).energy := by
  rw [warmReset_frame]
  refine ⟨rfl, fun c => ?_⟩
  simp only [warmBlocks, PerChain.get_mapIdx, warmThermal]

/-- A command that raises no power-on reset, no activation and no thermal step leaves the step counter and every
accumulator. -/
theorem exec_accumulators_of_no_mover {i : Instr} {s t : State} (he : exec i s = .next t)
    (hp : raises i .powerOn = false) (ha : raises i .activate = false) (ht : raises i .thermal = false) :
    t.thermal.steps = s.thermal.steps ∧
      ∀ c, (t.thermal.chains.get c).energy = (s.thermal.chains.get c).energy := by
  have k : KeptByEvents (fun x => raises i x = true) fun u => u.thermal.steps = s.thermal.steps ∧
      ∀ c, (u.thermal.chains.get c).energy = (s.thermal.chains.get c).energy :=
    keptByEvents_of_thermal (fun u v h hu => h ▸ hu) (fun h => by simp [hp] at h)
      (fun _ u ⟨hs, hc⟩ => by
        obtain ⟨ws, wc⟩ := warmReset_accumulators u
        exact ⟨ws.trans hs, fun c => (wc c).trans (hc c)⟩)
      (fun h => by simp [ha] at h) (fun h => by simp [ht] at h)
  exact k.command (fun _ h => h) ⟨rfl, fun _ => rfl⟩ he

theorem raises_powerOn_eq_false {i : Instr} (h : i ≠ .powerOnReset) : raises i .powerOn = false := by
  cases i
  case powerOnReset => exact absurd rfl h
  case spiWrite | spiQuadWrite => simp [raises]
  all_goals rfl

theorem unlessHeld_cases (f : State → State) (s : State) : unlessHeld f s = s ∨ unlessHeld f s = f s := by
  unfold unlessHeld
  split
  · exact .inl rfl
  · exact .inr rfl

theorem activation_cases (s : State) :
    unlessHeld (inRunning activate) s = s ∨ unlessHeld (inRunning activate) s = activate s := by
  by_cases hr : s.governor.state = .running
  · simpa only [inRunning, if_pos hr] using unlessHeld_cases (inRunning activate) s
  · exact .inl (strobe_not_running hr activate)

/-- A command of an activation is one, or changes nothing. -/
theorem exec_activate_cases {i : Instr} {s t : State} (he : exec i s = .next t) (ha : raises i .activate = true) :
    t = s ∨ t = activate s := by
  cases i
  case slota =>
    injection he with he
    exact he ▸ activation_cases s
  case driveLinkCut c | driveLinkCutClear c =>
    injection he with he
    subst he
    split
    · exact activation_cases s
    · exact .inl rfl
  case spiWrite | spiQuadWrite => simp [raises] at ha
  all_goals exact absurd ha Bool.false_ne_true

/-- A command of a thermal step is one, or changes nothing. -/
theorem exec_thermal_cases {i : Instr} {s t : State} (he : exec i s = .next t) (ht : raises i .thermal = true) :
    t = s ∨ t = thermalStep s := by
  cases i
  case thermalStep =>
    injection he with he
    exact he ▸ unlessHeld_cases thermalStep s
  case transmitWatchExpiry =>
    injection he with he
    subst he
    split
    · exact unlessHeld_cases thermalStep s
    · exact .inl rfl
  case spiWrite | spiQuadWrite => simp [raises] at ht
  all_goals exact absurd ht Bool.false_ne_true

/-! ### The balance of one command and of a run (R74) -/

theorem chargeOf_of_no_activation {c : Chain} {i : Instr} {s t : State} (h : raises i .activate = false) :
    chargeOf c i s t = 0 := by
  rw [chargeOf, if_neg (by simp [h])]

theorem chargeOf_self (c : Chain) (i : Instr) (s : State) : chargeOf c i s s = 0 := by
  rw [chargeOf, if_neg fun h => h.2 rfl]

theorem stepPowerOf_of_steps_eq {c : Chain} {s t : State} (h : t.thermal.steps = s.thermal.steps) :
    stepPowerOf c s t = 0 := by
  rw [stepPowerOf, if_neg fun hn => hn h]

theorem stepPowerOf_thermalStep (c : Chain) (s : State) :
    stepPowerOf c s (thermalStep s) = stepPower (s.thermal.chains.get c).energy := by
  have hn : (thermalStep s).thermal.steps ≠ s.thermal.steps := by
    rw [thermalStep_thermal]
    simp
  rw [stepPowerOf, if_pos hn, thermalStep_record]
  rfl

/-- What a command charges is what it takes out as step power and what the accumulator gains. -/
theorem exec_energy_balance {c : Chain} {i : Instr} {s t : State} (he : exec i s = .next t) (hi : i ≠ .powerOnReset)
    (hfit : raises i .activate = true → (s.thermal.chains.get c).energy + chargeOf c i s t ≤ 4294967295) :
    (s.thermal.chains.get c).energy + chargeOf c i s t =
      32 * stepPowerOf c s t + (t.thermal.chains.get c).energy := by
  by_cases ha : raises i .activate = true
  · obtain rfl | rfl := exec_activate_cases he ha
    · rw [chargeOf_self, stepPowerOf_of_steps_eq rfl]
      omega
    · have hs : (activate s).thermal.steps = s.thermal.steps := by rw [activate_thermal]
      rw [stepPowerOf_of_steps_eq hs, activate_energy ha (hfit ha)]
      omega
  have ha := Bool.eq_false_of_not_eq_true ha
  rw [chargeOf_of_no_activation ha]
  by_cases ht : raises i .thermal = true
  · obtain rfl | rfl := exec_thermal_cases he ht
    · rw [stepPowerOf_of_steps_eq rfl]
      omega
    · have hle := stepPower_le (s.thermal.chains.get c).energy
      rw [stepPowerOf_thermalStep, thermalStep_record]
      simp only [stepChain]
      omega
  · obtain ⟨hs, hc⟩ :=
      exec_accumulators_of_no_mover he (raises_powerOn_eq_false hi) ha (Bool.eq_false_of_not_eq_true ht)
    rw [stepPowerOf_of_steps_eq hs, hc c]
    omega

/-- The balance of a run, by induction over its commands. -/
theorem ledger_balance {c : Chain} {s t : State} {charged powers : Nat} (h : Ledger c s t charged powers) :
    (s.thermal.chains.get c).energy + charged = 32 * powers + (t.thermal.chains.get c).energy := by
  induction h with
  | start => omega
  | next i _ hi he hfit ih =>
    have := exec_energy_balance he hi hfit
    omega

/-- Settles O30: the balance of each command added up over the run. -/
theorem energyIsConserved : Obligations.EnergyIsConserved := by
  refine ⟨fun c s t charged powers h => ledger_balance h, fun s t c hh he hp => ?_, fun s t c he => ?_⟩
  · rw [exec_thermalStep_record hh he] at hp ⊢
    exact sub_stepPower_lt hp
  · injection he with he
    subst he
    simp only [powerOnReset, State.reset, PerChain.get_fill, thermalAtPowerOn]

end Sys2Proof.Machine
end

section
/-! The temperature rise (R67, R68): the move that the rounding gives, its resolution on either side, and the rest of the
rise under a constant target. -/

namespace Sys2Proof.Machine

/-! ### The move of one step -/

/-- The move of a rise that is d counts short of its target. -/
def riseMove (d : Int) (k : Nat) : Int :=
  (d * k + 32768) / 65536

theorem riseMove_pos_iff (d : Int) (k : Nat) : 0 < riseMove d k ↔ 32768 ≤ d * k := by
  unfold riseMove
  omega

theorem riseMove_neg_iff (d : Int) (k : Nat) : riseMove d k < 0 ↔ 32768 < -d * k := by
  rw [riseMove, neg_mul]
  omega

/-- Below the target the move is upwards and no longer than the distance. -/
theorem riseMove_of_nonneg {d : Int} {k : Nat} (hd : 0 ≤ d) (hk : k ≤ 65535) : 0 ≤ riseMove d k ∧ riseMove d k ≤ d := by
  have hlow : 0 ≤ d * k := mul_nonneg hd (by omega)
  have hhigh : d * k ≤ d * 65535 := mul_le_mul_of_nonneg_left (by omega) hd
  unfold riseMove
  omega

/-- Above the target the move is downwards and no longer than the distance. -/
theorem riseMove_of_nonpos {d : Int} {k : Nat} (hd : d ≤ 0) (hk : k ≤ 65535) : d ≤ riseMove d k ∧ riseMove d k ≤ 0 := by
  have hhigh : d * k ≤ 0 := mul_nonpos_of_nonpos_of_nonneg hd (by omega)
  have hlow : d * 65535 ≤ d * k := mul_le_mul_of_nonpos_left (by omega) hd
  unfold riseMove
  omega

/-- With k at most 32768 a move downwards does not cover the distance whole. -/
theorem riseMove_gt_of_neg {d : Int} {k : Nat} (hd : d < 0) (hk : k ≤ 32768) : d < riseMove d k := by
  have hlow : d * 32768 ≤ d * k := mul_le_mul_of_nonpos_left (by omega) hd.le
  unfold riseMove
  omega

/-! ### The moved rise (R68) -/

theorem clamp_of_mem {x lo hi : Int} (hlo : lo ≤ x) (hhi : x ≤ hi) : clamp x lo hi = x := by
  rw [clamp, if_neg (by omega), if_neg (by omega)]

theorem targetRise_bounds (p : Nat) (a : Assoc) : 0 ≤ targetRise p (some a) ∧ targetRise p (some a) ≤ 16383 := by
  have hn : 0 ≤ ((p : Int) * a.r * 64 + 500) / 1000 :=
    Int.ediv_nonneg (by exact_mod_cast Nat.zero_le (p * a.r * 64 + 500)) (by omega)
  simp only [targetRise]
  omega

section
variable {a : Assoc} {x y : Nat}

/-- Between a rise and a target in range the clamp of R68 has no effect. -/
theorem movedRise_eq (hk : a.k ≤ 65535) (hx : x ≤ 16383) (hy : y ≤ 16383) :
    (movedRise x y (some a) : Int) = x + riseMove (y - x) a.k := by
  have hrange : 0 ≤ (x : Int) + riseMove (y - x) a.k ∧ (x : Int) + riseMove (y - x) a.k ≤ 16383 := by
    rcases le_total x y with h | h
    · have := riseMove_of_nonneg (d := y - x) (by omega) hk
      omega
    · have := riseMove_of_nonpos (d := y - x) (by omega) hk
      omega
  show ((clamp (x + riseMove (y - x) a.k) 0 16383).toNat : Int) = _
  rw [clamp_of_mem hrange.1 hrange.2, Int.toNat_of_nonneg hrange.1]

/-- No overshoot: the moved rise lies between the rise and the target. -/
theorem movedRise_between (hk : a.k ≤ 65535) (hx : x ≤ 16383) (hy : y ≤ 16383) :
    min x y ≤ movedRise x y (some a) ∧ movedRise x y (some a) ≤ max x y := by
  have heq := movedRise_eq hk hx hy
  rcases le_total x y with h | h
  · have := riseMove_of_nonneg (d := y - x) (by omega) hk
    omega
  · have := riseMove_of_nonpos (d := y - x) (by omega) hk
    omega

theorem movedRise_gt_iff (hk : a.k ≤ 65535) (hx : x ≤ 16383) (hy : y ≤ 16383) (h : x ≤ y) :
    x < movedRise x y (some a) ↔ 32768 ≤ (y - x) * a.k := by
  have heq := movedRise_eq hk hx hy
  have hpos := riseMove_pos_iff (y - x) a.k
  rw [← Nat.cast_sub h] at heq hpos
  have hcast : (32768 : Int) ≤ (y - x : Nat) * a.k ↔ 32768 ≤ (y - x) * a.k := by exact_mod_cast Iff.rfl
  rw [← hcast, ← hpos]
  omega

theorem movedRise_lt_iff (hk : a.k ≤ 65535) (hx : x ≤ 16383) (hy : y ≤ 16383) (h : y ≤ x) :
    movedRise x y (some a) < x ↔ 32768 < (x - y) * a.k := by
  have heq := movedRise_eq hk hx hy
  have hneg := riseMove_neg_iff (y - x) a.k
  rw [neg_sub, ← Nat.cast_sub h] at hneg
  have hcast : (32768 : Int) < (x - y : Nat) * a.k ↔ 32768 < (x - y) * a.k := by exact_mod_cast Iff.rfl
  rw [← hcast, ← hneg]
  omega

/-- With k at most 32768 a rise above 0 does not reach the target 0. -/
theorem movedRise_zero_pos (hk : a.k ≤ 32768) (hx : x ≤ 16383) (h : 0 < x) : 0 < movedRise x 0 (some a) := by
  have heq := movedRise_eq (a := a) (y := 0) (by omega) hx (by omega)
  have hgt := riseMove_gt_of_neg (d := -(x : Int)) (by omega) hk
  rw [Nat.cast_zero, zero_sub] at heq
  omega

/-! ### The rest of the rise -/

/-- The rise is at most 32768 / k counts off the target, on either side. -/
def AtRest (a : Assoc) (y x : Nat) : Prop :=
  x * a.k ≤ y * a.k + 32768 ∧ y * a.k ≤ x * a.k + 32768

/-- A rise that a step leaves as it is has come to rest. -/
theorem atRest_of_movedRise_eq (hk : a.k ≤ 65535) (hx : x ≤ 16383) (hy : y ≤ 16383)
    (h : movedRise x y (some a) = x) : AtRest a y x := by
  rcases le_total x y with hle | hle
  · have hstay := (movedRise_gt_iff hk hx hy hle).not.mp (by omega)
    have hmul := Nat.mul_le_mul_right a.k hle
    rw [Nat.sub_mul] at hstay
    exact ⟨by omega, by omega⟩
  · have hstay := (movedRise_lt_iff hk hx hy hle).not.mp (by omega)
    have hmul := Nat.mul_le_mul_right a.k hle
    rw [Nat.sub_mul] at hstay
    exact ⟨by omega, by omega⟩

/-- Under a constant target every step that moves the rise shortens its distance, so the rise comes to rest. -/
theorem movedRise_comes_to_rest (hk : a.k ≤ 65535) (hx : x ≤ 16383) (hy : y ≤ 16383) :
    ∃ n z, AtRest a y z ∧ ∀ m, n ≤ m → (fun x => movedRise x y (some a))^[m] x = z := by
  induction hd : Int.natAbs (y - x) using Nat.strong_induction_on generalizing x with
  | _ d ih =>
    obtain ⟨hmin, hmax⟩ := movedRise_between hk hx hy
    by_cases hfix : movedRise x y (some a) = x
    · exact ⟨0, x, atRest_of_movedRise_eq hk hx hy hfix, fun m _ => Function.iterate_fixed hfix m⟩
    · obtain ⟨n, z, hz, hrest⟩ := ih _ (by omega) (x := movedRise x y (some a)) (by omega) rfl
      refine ⟨n + 1, z, hz, fun m hm => ?_⟩
      obtain ⟨m, rfl⟩ : ∃ j, m = j + 1 := ⟨m - 1, by omega⟩
      rw [Function.iterate_succ_apply]
      exact hrest m (by omega)

end

/-- Settles O29: the laws of the moved rise, and its rest by induction on the distance to the target. -/
theorem riseMovesTowardsItsTarget : Obligations.RiseMovesTowardsItsTarget := by
  refine ⟨fun s t c a hh he ha => ?_, targetRise_bounds, fun a _ hk x y hx hy => ?_⟩
  · rw [exec_thermalStep_record hh he, ← ha]
    rfl
  · obtain ⟨hmin, hmax⟩ := movedRise_between hk hx hy
    obtain ⟨n, z, ⟨hlow, hhigh⟩, hrest⟩ := movedRise_comes_to_rest hk hx hy
    exact ⟨movedRise_eq hk hx hy, hmin, hmax, fun h => movedRise_gt_iff hk hx hy h.le,
      fun h => movedRise_lt_iff hk hx hy h.le, ⟨n, z, hlow, hhigh, hrest⟩,
      fun hk' hpos => movedRise_zero_pos hk' hx hpos⟩

end Sys2Proof.Machine
end

section
/-! The validation of a profile image (R85): what each check decides, and the first point with a fault that decides the
image. -/

namespace Sys2Proof.Machine

/-! ### The conditions of the checks -/

/-- Checks 1 to 3: the index is the target's, R and k are in range. -/
def HeaderGood (b : LoadBuffer) : Prop :=
  b.index = b.target.val ∧ 1 ≤ b.image.r ∧ b.image.r ≤ 255 ∧ 1 ≤ b.image.k ∧ b.image.k ≤ 65535

/-- Checks 5 and 6 for one curve: point i is not below the point before it, where there is one. -/
def CurveOrderedAt (v : Vector Nat 25) (i : Fin 25) : Prop :=
  ∀ j : Fin 25, j.val + 1 = i.val → v[j] ≤ v[i]

/-- Checks 4 to 6 for point i. -/
def PointGood (im : ProfileImage) (i : Fin 25) : Prop :=
  im.currents[i] ≤ 8000 ∧ CurveOrderedAt im.currents i ∧ CurveOrderedAt im.dissipations i

/-- The order of a curve at point i, with the point before it as i - 1. -/
theorem curveOrderedAt_iff {v : Vector Nat 25} {i : Fin 25} : CurveOrderedAt v i ↔ (i.val ≠ 0 → v[i.val - 1] ≤ v[i]) := by
  constructor
  · intro h hi
    exact h ⟨i.val - 1, by omega⟩ (by simp only; omega)
  · intro h j hj
    have hprev : i.val - 1 = j.val := by omega
    simpa only [hprev, Fin.getElem_fin] using h (by omega)

/-- The test by which `pointFault` finds a curve out of order. -/
theorem curve_falls_iff {v : Vector Nat 25} {i : Fin 25} :
    (i.val ≠ 0 ∧ v.getD i 0 < v.getD (i.val - 1) 0) ↔ ¬CurveOrderedAt v i := by
  rw [curveOrderedAt_iff, vector_getD_of_lt v i.isLt, vector_getD_of_lt v (by omega), Classical.not_imp, not_le,
    Fin.getElem_fin]

/-! ### The fault of one point -/

section
variable {im : ProfileImage} {i : Fin 25}

theorem pointFault_eq_currentLimit (h : 8000 < im.currents[i]) : pointFault im i = some ⟨i.val, 4⟩ := by
  rw [pointFault, if_pos]
  rwa [vector_getD_of_lt _ i.isLt]

theorem pointFault_eq_currentOrder (hlimit : im.currents[i] ≤ 8000) (h : ¬CurveOrderedAt im.currents i) :
    pointFault im i = some ⟨i.val, 5⟩ := by
  rw [pointFault, if_neg, if_pos (curve_falls_iff.mpr h)]
  rw [vector_getD_of_lt _ i.isLt]
  exact hlimit.not_gt

theorem pointFault_eq_dissipationOrder (hlimit : im.currents[i] ≤ 8000) (hcurrent : CurveOrderedAt im.currents i)
    (h : ¬CurveOrderedAt im.dissipations i) : pointFault im i = some ⟨i.val, 6⟩ := by
  rw [pointFault, if_neg, if_neg (curve_falls_iff.not.mpr (not_not.mpr hcurrent)), if_pos (curve_falls_iff.mpr h)]
  rw [vector_getD_of_lt _ i.isLt]
  exact hlimit.not_gt

theorem pointFault_eq_none_iff_pointGood : pointFault im i = none ↔ PointGood im i := by
  rw [pointFault_eq_none_iff i.isLt, PointGood, curveOrderedAt_iff, curveOrderedAt_iff, ← imp_and]
  rfl

end

/-! ### The first point with a fault -/

/-- A search through the numbers below n ends at the first that answers. -/
theorem findSome?_range_of_first {β : Type} {f : Nat → Option β} {n i : Nat} {y : β} (hi : i < n)
    (hbefore : ∀ j < i, f j = none) (h : f i = some y) : (List.range n).findSome? f = some y := by
  obtain ⟨m, rfl⟩ : ∃ m, n = i + (m + 1) := ⟨n - i - 1, by omega⟩
  have hnone : (List.range i).findSome? f = none :=
    List.findSome?_eq_none_iff.mpr fun j hj => hbefore j (List.mem_range.mp hj)
  rw [List.range_add, List.findSome?_append, hnone, Option.none_or, List.range_succ_eq_map]
  simp [h]

theorem findSome?_pointFault_eq_none_iff {im : ProfileImage} :
    (List.range 25).findSome? (pointFault im) = none ↔ ∀ i, PointGood im i := by
  simp only [List.findSome?_eq_none_iff, List.mem_range, ← pointFault_eq_none_iff_pointGood, Fin.forall_iff]

/-! ### The fault of an image -/

section
variable {b : LoadBuffer}

theorem imageFault_eq_indexMismatch (h : b.index ≠ b.target.val) : imageFault b = some ⟨255, 1⟩ := by
  rw [imageFault, if_pos h]

theorem imageFault_eq_rRange (hindex : b.index = b.target.val) (h : b.image.r = 0 ∨ 255 < b.image.r) :
    imageFault b = some ⟨255, 2⟩ := by
  rw [imageFault, if_neg (not_not.mpr hindex), if_pos (by omega)]

theorem imageFault_eq_kRange (hindex : b.index = b.target.val) (hlow : 1 ≤ b.image.r) (hhigh : b.image.r ≤ 255)
    (h : b.image.k = 0 ∨ 65535 < b.image.k) : imageFault b = some ⟨255, 3⟩ := by
  rw [imageFault, if_neg (not_not.mpr hindex), if_neg (by omega), if_pos (by omega)]

/-- Behind a good header the points decide. -/
theorem imageFault_of_headerGood (h : HeaderGood b) :
    imageFault b = (List.range 25).findSome? (pointFault b.image) := by
  obtain ⟨hindex, hrlow, hrhigh, hklow, hkhigh⟩ := h
  rw [imageFault, if_neg (not_not.mpr hindex), if_neg (by omega), if_neg (by omega)]

/-- Behind a good header and good points the fault of point i decides. -/
theorem imageFault_eq_pointFault {i : Fin 25} {f : ImageFault} (hheader : HeaderGood b)
    (hbefore : ∀ j, j < i → PointGood b.image j) (h : pointFault b.image i = some f) : imageFault b = some f := by
  rw [imageFault_of_headerGood hheader]
  refine findSome?_range_of_first i.isLt (fun j hj => ?_) h
  exact pointFault_eq_none_iff_pointGood.mpr (hbefore ⟨j, hj.trans i.isLt⟩ hj)

/-- A header that is not good is a fault by itself. -/
theorem headerGood_of_imageFault_eq_none (h : imageFault b = none) : HeaderGood b := by
  by_cases hindex : b.index = b.target.val
  · by_cases hr : 1 ≤ b.image.r ∧ b.image.r ≤ 255
    · by_cases hk : 1 ≤ b.image.k ∧ b.image.k ≤ 65535
      · exact ⟨hindex, hr.1, hr.2, hk⟩
      · cases (imageFault_eq_kRange hindex hr.1 hr.2 (by omega)).symm.trans h
    · cases (imageFault_eq_rRange hindex (by omega)).symm.trans h
  · cases (imageFault_eq_indexMismatch hindex).symm.trans h

theorem imageFault_eq_none_iff : imageFault b = none ↔ HeaderGood b ∧ ∀ i, PointGood b.image i := by
  constructor
  · intro h
    have hheader := headerGood_of_imageFault_eq_none h
    exact ⟨hheader, findSome?_pointFault_eq_none_iff.mp (imageFault_of_headerGood hheader ▸ h)⟩
  · rintro ⟨hheader, hpoints⟩
    rw [imageFault_of_headerGood hheader, findSome?_pointFault_eq_none_iff.mpr hpoints]

/-- `valid` makes checks 2 to 6, which are all but the index's. -/
theorem valid_iff_imageFault_eq_none (hindex : b.index = b.target.val) :
    b.image.valid = true ↔ imageFault b = none := by
  simp only [ProfileImage.valid, Bool.and_eq_true, decide_eq_true_eq, Option.isNone_iff_eq_none,
    findSome?_pointFault_eq_none_iff, imageFault_eq_none_iff, HeaderGood, hindex, true_and, and_assoc]

end

/-- Settles O49: the header's checks one by one, and the first point with a fault behind a good header. -/
theorem imageChecksInOrder : Obligations.ImageChecksInOrder := fun _ =>
  ⟨imageFault_eq_indexMismatch, imageFault_eq_rRange, imageFault_eq_kRange,
    fun hheader _ hbefore =>
      ⟨fun h => imageFault_eq_pointFault hheader hbefore (pointFault_eq_currentLimit h),
        fun hlimit h => imageFault_eq_pointFault hheader hbefore (pointFault_eq_currentOrder hlimit h),
        fun hlimit hcurrent h =>
          imageFault_eq_pointFault hheader hbefore (pointFault_eq_dissipationOrder hlimit hcurrent h)⟩,
    imageFault_eq_none_iff, valid_iff_imageFault_eq_none⟩

end Sys2Proof.Machine
end

section
/-! The ranges of the thermal records (R60, R72) and the validated profile slots (R80, R86): what the estimator, the sensors
and the store answer, and that every step keeps both. -/

namespace Sys2Proof.Machine

/-! ### The thermal ranges (R60, R72) -/

/-- The ranges of one thermal record, with Tj = Tm + X. -/
def RecordInRange (t : ThermalRecord) : Prop :=
  t.energy ≤ 4294967295 ∧ t.rise ≤ 16383 ∧ t.power ≤ 65535 ∧ -2560 ≤ t.tm ∧ t.tm ≤ 11200 ∧ t.tj = t.tm + t.rise

/-- The temperatures that stand in for a module reading or are one. -/
def TemperaturesInRange (s : State) : Prop :=
  (∀ c, -2560 ≤ (s.config.get c).fallback ∧ (s.config.get c).fallback ≤ 11200) ∧
  ∀ ch : Fin 5, -2560 ≤ s.sensors.readings[ch.val].value ∧ s.sensors.readings[ch.val].value ≤ 11200

theorem thermalLaw_iff (s : State) :
    ThermalLaw s ↔ (∀ c, RecordInRange (s.thermal.chains.get c)) ∧ TemperaturesInRange s := Iff.rfl

theorem movedRise_le (rise : Nat) (target : Int) (a : Option Assoc) : movedRise rise target a ≤ 16383 := by
  unfold movedRise
  split
  · omega
  · have := clamp_bounds ((rise : Int) + ((target - rise) * (by assumption : Assoc).k + 32768) / 65536) 0 16383 (by omega)
    omega

/-- The module temperature of a step is the fallback or the reading. -/
theorem moduleTemperature_range {s : State} (h : TemperaturesInRange s) (c : Chain) :
    -2560 ≤ moduleTemperature s c ∧ moduleTemperature s c ≤ 11200 := by
  unfold moduleTemperature
  split
  · exact h.1 c
  · exact h.2 ⟨c.val, by omega⟩

theorem stepChain_inRange {s : State} (hs : TemperaturesInRange s) (c : Chain) {t : ThermalRecord}
    (h : RecordInRange t) : RecordInRange (stepChain s c t) := by
  obtain ⟨henergy, -⟩ := h
  obtain ⟨hlo, hhi⟩ := moduleTemperature_range hs c
  refine ⟨?_, movedRise_le _ _ _, min_le_right _ _, hlo, hhi, rfl⟩
  simp only [stepChain]
  omega

theorem chargeChain_inRange (m : Nat) (f : InForce) {t : ThermalRecord} (h : RecordInRange t) :
    RecordInRange (chargeChain m f t) := by
  unfold chargeChain
  split
  · exact ⟨min_le_left _ _, h.2⟩
  · exact h
  · exact h

theorem warmThermal_inRange {t : ThermalRecord} (h : RecordInRange t) : RecordInRange (warmThermal t) := by
  obtain ⟨henergy, hrise, hpower, -⟩ := h
  exact ⟨henergy, hrise, hpower, by simp [warmThermal], by simp [warmThermal], rfl⟩

/-- A temperature channel's converted value is clamped to the range of R124. -/
theorem convert_value_range (u : SensorUnit) (ch : Fin 11) (hch : ch.val < 5) (raw : BitVec 12) :
    -2560 ≤ (convert u ch raw).value ∧ (convert u ch raw).value ≤ 11200 := by
  unfold convert
  rw [dif_pos hch]
  exact clamp_bounds _ _ _ (by omega)

theorem countScan_sensors (s : State) : (countScan s).sensors = s.sensors := by rw [countScan_frame]

theorem publishScan_readings (raw : Vector (BitVec 12) 11) (s : State) :
    (publishScan raw s).sensors.readings = vmapIdx (fun ch r => convert s.sensors ch r) raw := by
  rw [publishScan, countScan_sensors]
  rfl

/-- The readings after a scan completion: a published scan converted with some state of the unit, or as before. -/
theorem scanCompleted_readings (raw : Vector (BitVec 12) 11) (s : State) :
    (∃ u : SensorUnit, (scanCompleted raw s).sensors.readings = vmapIdx (fun ch r => convert u ch r) raw) ∨
      (scanCompleted raw s).sensors.readings = s.sensors.readings := by
  unfold scanCompleted
  split
  · exact .inl ⟨_, publishScan_readings raw _⟩
  · split
    · exact .inl ⟨_, publishScan_readings raw _⟩
    · exact .inr rfl
  · exact .inr rfl
  · exact .inr rfl

theorem scanCompleted_temperatures {s : State} (h : TemperaturesInRange s) (raw : Vector (BitVec 12) 11) :
    TemperaturesInRange (scanCompleted raw s) := by
  refine ⟨by rw [scanCompleted_frame]; exact h.1, fun ch => ?_⟩
  obtain ⟨u, hr⟩ | hr := scanCompleted_readings raw s
  · have hget := vmapIdx_get (fun ch r => convert u ch r) raw ⟨ch.val, by omega⟩
    simp only [Fin.getElem_fin] at hget
    rw [hr, hget]
    exact convert_value_range u ⟨ch.val, by omega⟩ ch.isLt _
  · rw [hr]
    exact h.2 ch

theorem defaultTemperatures_inRange {s : State} (hc : s.config = .fill configDefault)
    (hr : s.sensors.readings = Vector.replicate 11 readingAtReset) : TemperaturesInRange s := by
  refine ⟨fun c => ?_, fun ch => ?_⟩
  · rw [hc, PerChain.get_fill]
    decide
  · rw [hr, Vector.getElem_replicate]
    decide

theorem powerOnReset_thermalLaw (s : State) : ThermalLaw (powerOnReset s) := by
  refine (thermalLaw_iff _).2 ⟨fun c => ?_, defaultTemperatures_inRange rfl rfl⟩
  simp [powerOnReset, State.reset, thermalAtPowerOn, RecordInRange]

theorem warmReset_thermalLaw {s : State} (h : ThermalLaw s) : ThermalLaw (warmReset s) := by
  rw [warmReset_frame]
  refine (thermalLaw_iff _).2 ⟨fun c => ?_, defaultTemperatures_inRange rfl rfl⟩
  simp only [warmBlocks, PerChain.get_mapIdx]
  exact warmThermal_inRange (h.1 c)

theorem activate_thermalLaw {s : State} (h : ThermalLaw s) (ht : (activate s).config = s.config)
    (hr : (activate s).sensors = s.sensors) : ThermalLaw (activate s) := by
  refine (thermalLaw_iff _).2 ⟨fun c => ?_, ?_⟩
  · rw [activate_thermal, PerChain.get_mapIdx]
    exact chargeChain_inRange _ _ (h.1 c)
  · unfold TemperaturesInRange
    rw [ht, hr]
    exact h.2

theorem activatePrepared_thermalLaw {s : State} (h : ThermalLaw s) {p : Prepared} (hp : s.slot.prepared = some p) :
    ThermalLaw (activatePrepared p s) := by
  have ha : activate s = activatePrepared p s := by rw [activate, hp]
  rw [← ha]
  exact activate_thermalLaw h (by rw [ha, activatePrepared_frame]) (by rw [ha, activatePrepared_frame])

theorem activateOrphan_thermalLaw {s : State} (h : ThermalLaw s) (hp : s.slot.prepared = none) :
    ThermalLaw (activateOrphan s) := by
  have ha : activate s = activateOrphan s := by rw [activate, hp]
  rw [← ha]
  exact activate_thermalLaw h (by rw [ha, activateOrphan_frame]) (by rw [ha, activateOrphan_frame])

theorem stepEstimator_thermalLaw {s : State} (h : ThermalLaw s) : ThermalLaw (stepEstimator s) := by
  refine (thermalLaw_iff _).2 ⟨fun c => ?_, h.2⟩
  simp only [stepEstimator, putStepMirror, partWrite_thermal, PerChain.get_mapIdx]
  exact stepChain_inRange h.2 c (h.1 c)

theorem setupChain_thermalLaw {s : State} (h : ThermalLaw s) (c : Chain) {k : ChainConfig} (hlo : -2560 ≤ k.fallback)
    (hhi : k.fallback ≤ 11200) : ThermalLaw { s with config := s.config.set c k } := by
  refine (thermalLaw_iff _).2 ⟨h.1, fun d => ?_, h.2.2⟩
  simp only [PerChain.get_set]
  split
  · exact ⟨hlo, hhi⟩
  · exact h.2.1 d

/-- The law looks at the estimator, the configuration table and the readings alone. -/
theorem ThermalLaw.of_eq {s t : State} (ht : t.thermal = s.thermal) (hc : t.config = s.config)
    (hr : t.sensors.readings = s.sensors.readings) (h : ThermalLaw s) : ThermalLaw t := by
  unfold ThermalLaw at *
  rwa [ht, hc, hr]

theorem keptByEvents_thermalLaw : KeptByEvents (fun _ => True) ThermalLaw where
  powerOn _ s _ := powerOnReset_thermalLaw s
  warm _ _ h := warmReset_thermalLaw h
  pins _ _ h := h
  prepare _ _ _ h _ := h.of_eq rfl rfl rfl
  activatePrepared _ _ _ h _ hp := activatePrepared_thermalLaw h hp
  activateOrphan _ _ h _ hp := activateOrphan_thermalLaw h hp
  transfer ack s h := by rw [transferCompleted_frame]; exact h
  estimator _ _ h := stepEstimator_thermalLaw h
  watch _ _ h _ := h
  stop _ why stamp s h := by rw [requestStop_frame]; exact h
  table _ s h := by rw [evaluateTable_frame]; exact h
  scanDone _ raw s h :=
    (thermalLaw_iff _).2 ⟨by rw [scanCompleted_frame]; exact h.1, scanCompleted_temperatures h.2 raw⟩
  setupSlots _ _ _ _ _ _ h _ _ _ _ := h
  setupChain _ c _ _ h _ _ _ _ hlo hhi := setupChain_thermalLaw h c hlo hhi
  setupCondition _ _ _ _ _ _ _ s h _ := by rw [replaceEntry_frame]; exact h
  setupSupply _ _ _ h _ := h
  setupChannel _ _ _ _ h _ _ _ _ _ := h
  loadTaken _ _ _ h := h
  drop _ _ _ h := h
  measuring _ _ _ h _ _ := h
  captureOn _ _ _ _ _ h _ _ _ _ _ := h
  captureOff _ _ h := h
  release _ c s h _ _ := by rw [releaseLatch_frame]; exact h
  discard _ _ _ h _ := h
  complete _ _ _ _ _ s h _ := by rw [completeEntry_frame]; exact h
  active _ _ _ h _ _ := h
  timer _ _ _ _ h _ _ := h
  measure _ _ _ _ h _ := h
  loadDone _ s h _ := by rw [finishLoad_frame]; exact h
  calibrate _ _ s h _ := by rw [applyCalibration_frame]; exact h
  settle _ _ h _ := h
  captureStep _ s h := by rw [captureStep_frame]; exact h
  burst b s h _ := by rw [quietAfterBurst_frame, landBurst_frame]; exact h
  stoppedIfQuiet s h := by rw [enterStoppedIfQuiet_frame]; exact h
  host _ _ _ _ h := h
  reading _ _ _ h := h
  ncause v s h := by rw [writeNcause_frame]; exact h
  nmask _ _ h := h
  run1 s h := by rw [writeRun1_frame]; exact h
  run0 s h := by rw [writeRun0_frame]; exact h
  post _ kind notify a s h := by rw [postAtCursor_frame]; exact h
  board _ h := h

/-- Settles O32: the induction over the part's events. -/
theorem everyStepKeepsTheThermalRanges : Obligations.EveryStepKeepsTheThermalRanges :=
  keptByEvents_thermalLaw.step (fun _ => trivial) fun _ _ h => h

/-! ### The profile slots (R80, R86) -/

/-- An image that passes its validation is a valid one. -/
theorem valid_of_imageFault_eq_none {b : LoadBuffer} (h : imageFault b = none) : b.image.valid = true := by
  obtain ⟨⟨hindex, -⟩, -⟩ := imageFault_eq_none_iff.1 h
  exact (valid_iff_imageFault_eq_none hindex).2 h

/-- A slot replaced by nothing or by a valid image leaves every present slot valid. -/
theorem StoreLaw.set {s : State} (h : StoreLaw s) (j : Fin 16) {o : Option ProfileImage}
    (ho : ∀ im, o = some im → im.valid = true) (b : Option LoadBuffer) :
    StoreLaw { s with store := ⟨s.store.slots.set j.val o j.isLt, b⟩ } := by
  intro i im him
  simp only [Fin.getElem_fin, Vector.getElem_set] at him
  split at him
  · exact ho im him
  · exact h i im him

theorem finishLoad_storeLaw {s : State} (h : StoreLaw s) : StoreLaw (finishLoad s) := by
  unfold finishLoad
  split
  · exact h
  · next b _ =>
    split
    · next hf =>
      refine h.set b.target (o := some b.image) (fun im him => ?_) none
      rw [← Option.some.inj him]
      exact valid_of_imageFault_eq_none hf
    · exact h

theorem powerOnReset_storeLaw (s : State) : StoreLaw (powerOnReset s) := by
  intro j im him
  simp [powerOnReset, State.reset] at him

theorem keptByEvents_storeLaw : KeptByEvents (fun _ => True) StoreLaw where
  powerOn _ s _ := powerOnReset_storeLaw s
  warm _ s h := by rw [warmReset_frame]; exact h
  pins _ _ h := h
  prepare _ _ _ h _ := h
  activatePrepared _ p s h _ _ := by rw [activatePrepared_frame]; exact h
  activateOrphan _ s h _ _ := by rw [activateOrphan_frame]; exact h
  transfer ack s h := by rw [transferCompleted_frame]; exact h
  estimator _ _ h := h
  watch _ _ h _ := h
  stop _ why stamp s h := by rw [requestStop_frame]; exact h
  table _ s h := by rw [evaluateTable_frame]; exact h
  scanDone _ raw s h := by rw [scanCompleted_frame]; exact h
  setupSlots _ _ _ _ _ _ h _ _ _ _ := h
  setupChain _ _ _ _ h _ _ _ _ _ _ := h
  setupCondition _ _ _ _ _ _ _ s h _ := by rw [replaceEntry_frame]; exact h
  setupSupply _ _ _ h _ := h
  setupChannel _ _ _ _ h _ _ _ _ _ := h
  loadTaken _ _ _ h := h
  drop _ j s h := h.set j (o := none) nofun s.store.buffer
  measuring _ _ _ h _ _ := h
  captureOn _ _ _ _ _ h _ _ _ _ _ := h
  captureOff _ _ h := h
  release _ c s h _ _ := by rw [releaseLatch_frame]; exact h
  discard _ _ _ h _ := h
  complete _ _ _ _ _ s h _ := by rw [completeEntry_frame]; exact h
  active _ _ _ h _ _ := h
  timer _ _ _ _ h _ _ := h
  measure _ _ _ _ h _ := h
  loadDone _ _ h _ := finishLoad_storeLaw h
  calibrate _ _ s h _ := by rw [applyCalibration_frame]; exact h
  settle _ _ h _ := h
  captureStep _ s h := by rw [captureStep_frame]; exact h
  burst b s h _ := by rw [quietAfterBurst_frame, landBurst_frame]; exact h
  stoppedIfQuiet s h := by rw [enterStoppedIfQuiet_frame]; exact h
  host _ _ _ _ h := h
  reading _ _ _ h := h
  ncause v s h := by rw [writeNcause_frame]; exact h
  nmask _ _ h := h
  run1 s h := by rw [writeRun1_frame]; exact h
  run0 s h := by rw [writeRun0_frame]; exact h
  post _ kind notify a s h := by rw [postAtCursor_frame]; exact h
  board _ h := h

/-- Settles O51: the induction over the part's events; only a load's swap puts an image into a slot. -/
theorem everyStepKeepsValidatedProfiles : Obligations.EveryStepKeepsValidatedProfiles :=
  keptByEvents_storeLaw.step (fun _ => trivial) fun _ _ h => h

end Sys2Proof.Machine
end

section
/-! The hold of the readings table (R126, R164), the cut requests (R102, R107), and the bounds of grants and budgets (R41 to
R45, R57): what each event makes of them, and that every step keeps them. -/

namespace Sys2Proof.Machine

/-! ### Entering and leaving INIT -/

theorem enterStoppedIfQuiet_init (s : State) :
    (enterStoppedIfQuiet s).governor.state = .init ↔ s.governor.state = .init := by
  obtain ⟨hs, -, he⟩ | ⟨-, he⟩ := enterStoppedIfQuiet_cases s
  · rw [he, hs]
    exact ⟨nofun, nofun⟩
  · rw [he]

theorem transferCompleted_init (ack : Bool) (s : State) :
    (transferCompleted ack s).governor.state = .init ↔ s.governor.state = .init := by
  unfold transferCompleted
  split
  · rfl
  · dsimp only
    split
    · rw [enterStoppedIfQuiet_init]
      rfl
    · rfl

theorem requestStop_init (why : StopReason) (stamp : Stamp) (s : State) :
    (requestStop why stamp s).governor.state = .init ↔ s.governor.state = .init := by
  rw [requestStop_state]
  split
  · next h =>
    have hs : s.governor.state ≠ .init := by
      rintro he
      rw [he] at h
      simp at h
    simp only [hs, iff_false]
    split <;> exact nofun
  · rfl

theorem quietAfterBurst_init (s : State) :
    (quietAfterBurst s).governor.state = .init ↔ s.governor.state = .init := by
  unfold quietAfterBurst
  split
  · rw [enterStoppedIfQuiet_init]
    rfl
  · rfl

theorem writeNcause_init (v : Half) (s : State) :
    (writeNcause v s).governor.state = .init ↔ s.governor.state = .init := by
  simp only [writeNcause, clearStop]
  split
  · split
    · next h =>
      have hs : s.governor.state = .stopped := h
      rw [hs]
      exact ⟨nofun, nofun⟩
    · rfl
  · rfl

theorem writeRun1_init (s : State) : (writeRun1 s).governor.state = .init ↔ s.governor.state = .init := by
  unfold writeRun1
  split
  · rfl
  · next h =>
    rw [h]
    exact ⟨nofun, nofun⟩
  · rfl
  · rfl
  · rfl

theorem writeRun0_init (s : State) : (writeRun0 s).governor.state = .init ↔ s.governor.state = .init := by
  unfold writeRun0
  split
  · rfl
  · rfl
  · next h =>
    rw [h]
    exact ⟨nofun, nofun⟩
  · rfl
  · rfl

/-- INIT is entered by a reset alone: a scan completion can only end it. -/
theorem countScan_init {s : State} (h : (countScan s).governor.state = .init) : s.governor.state = .init := by
  by_contra hs
  rw [countScan, if_neg hs] at h
  exact hs h

/-! ### The readings table (R126, R164) -/

/-- The law looks at the Sensor Unit, the active directive and whether the governor is in INIT. -/
theorem HoldLaw.of_eq {s t : State} (hs : t.sensors = s.sensors) (hd : t.directives = s.directives)
    (hg : t.governor.state = .init ↔ s.governor.state = .init) (h : HoldLaw s) : HoldLaw t := by
  obtain ⟨h1, h2, h3⟩ := h
  unfold HoldLaw
  rw [hs, hd]
  exact ⟨h1, fun hn => h2 fun hi => hn (hg.2 hi), fun hi => h3 (hg.1 hi)⟩

/-- A directive is active only outside INIT. -/
theorem HoldLaw.not_init_of_active {s : State} (h : HoldLaw s) (ha : s.directives.active.isSome = true) :
    s.governor.state ≠ .init := by
  intro hi
  rw [(h.2.2 hi).2] at ha
  exact absurd ha Bool.false_ne_true

/-- Outside INIT the unit may enter a mode that holds the table. -/
theorem HoldLaw.hold {s : State} (h : HoldLaw s) (hi : s.governor.state ≠ .init) {f : SensorUnit → SensorUnit}
    (hm : (f s.sensors).mode ≠ .scanning) (hh : (f s.sensors).held = true)
    (hv : (f s.sensors).valid = s.sensors.valid) : HoldLaw (mapSensors f s) :=
  ⟨⟨fun _ => hm, fun _ => hh⟩, fun _ => hv.trans (h.2.1 hi), fun hg => absurd hg hi⟩

theorem publishScan_holdLaw {s : State} (raw : Vector (BitVec 12) 11)
    (hold : s.sensors.held = true ↔ s.sensors.mode ≠ .scanning)
    (init : s.governor.state = .init → s.sensors.mode = .scanning ∧ s.directives.active = none) :
    HoldLaw (publishScan raw s) := by
  unfold publishScan HoldLaw
  refine ⟨?_, fun _ => ?_, fun hg => ?_⟩
  · rw [countScan_sensors]
    exact hold
  · rw [countScan_sensors]
    rfl
  · have hi := countScan_init hg
    rw [mapSensors_governor] at hi
    rw [countScan_frame]
    exact init hi

theorem scanCompleted_holdLaw {s : State} (raw : Vector (BitVec 12) 11) (h : HoldLaw s) :
    HoldLaw (scanCompleted raw s) := by
  unfold scanCompleted
  split
  · exact publishScan_holdLaw raw h.1 h.2.2
  · split
    · exact publishScan_holdLaw raw ⟨nofun, fun hm => absurd rfl hm⟩ fun hi => ⟨rfl, (h.2.2 hi).2⟩
    · exact h
  · exact h
  · exact h

theorem keptByEvents_holdLaw : KeptByEvents (fun _ => True) HoldLaw where
  powerOn _ _ _ := ⟨⟨nofun, fun h => absurd rfl h⟩, fun h => absurd rfl h, fun _ => ⟨rfl, rfl⟩⟩
  warm _ s _ := by
    rw [warmReset_frame]
    exact ⟨⟨nofun, fun h => absurd rfl h⟩, fun h => absurd rfl h, fun _ => ⟨rfl, rfl⟩⟩
  pins _ _ h := h
  prepare _ _ _ h _ := h
  activatePrepared _ p s h _ _ := by rw [activatePrepared_frame]; exact h
  activateOrphan _ s h _ _ := by rw [activateOrphan_frame]; exact h
  transfer ack s h := h.of_eq (by rw [transferCompleted_frame]) (by rw [transferCompleted_frame])
    (transferCompleted_init ack s)
  estimator _ _ h := h
  watch _ _ h _ := h
  stop _ why stamp s h := h.of_eq (by rw [requestStop_frame]) (by rw [requestStop_frame])
    (requestStop_init why stamp s)
  table _ s h := by rw [evaluateTable_frame]; exact h
  scanDone _ raw _ h := scanCompleted_holdLaw raw h
  setupSlots _ _ _ _ _ _ h _ _ _ _ := h
  setupChain _ _ _ _ h _ _ _ _ _ _ := h
  setupCondition _ _ _ _ _ _ _ s h _ := by rw [replaceEntry_frame]; exact h
  setupSupply _ _ _ h _ := h
  setupChannel _ ch p s h _ _ _ _ hi :=
    HoldLaw.hold (s := mapSensors (fun u => { u with pairs := u.pairs.set ch.val p ch.isLt }) s) h hi nofun rfl rfl
  loadTaken _ _ _ h := h
  drop _ _ _ h := h
  measuring _ mode s h hm hi := h.hold hi (by obtain rfl | rfl := hm <;> exact nofun) rfl rfl
  captureOn _ _ _ _ _ h _ _ _ _ _ := h
  captureOff _ _ h := h
  release _ c s h _ _ := by rw [releaseLatch_frame]; exact h
  discard _ _ _ h _ := h
  complete _ _ _ _ _ s h _ := by
    rw [completeEntry_frame]
    exact ⟨h.1, h.2.1, fun hi => ⟨(h.2.2 hi).1, rfl⟩⟩
  active _ _ _ h _ hi := ⟨h.1, h.2.1, fun hg => absurd hg hi⟩
  timer _ _ _ _ h ha _ :=
    ⟨h.1, h.2.1, fun hg => absurd hg (h.not_init_of_active (by rw [ha]; rfl))⟩
  measure _ _ _ _ h _ := h
  loadDone _ s h _ := by rw [finishLoad_frame]; exact h
  calibrate _ _ s h _ := by rw [applyCalibration_frame]; exact h
  settle _ _ h ha := h.hold (h.not_init_of_active ha) nofun rfl rfl
  captureStep _ s h := by rw [captureStep_frame]; exact h
  burst b s h _ := h.of_eq (by rw [quietAfterBurst_frame, landBurst_frame])
    (by rw [quietAfterBurst_frame, landBurst_frame]) (by rw [quietAfterBurst_init, landBurst_frame])
  stoppedIfQuiet s h := h.of_eq (by rw [enterStoppedIfQuiet_frame]) (by rw [enterStoppedIfQuiet_frame])
    (enterStoppedIfQuiet_init s)
  host _ _ _ _ h := h
  reading _ _ _ h := h
  ncause v s h := h.of_eq (by rw [writeNcause_frame]) (by rw [writeNcause_frame]) (writeNcause_init v s)
  nmask _ _ h := h
  run1 s h := h.of_eq (by rw [writeRun1_frame]) (by rw [writeRun1_frame]) (writeRun1_init s)
  run0 s h := h.of_eq (by rw [writeRun0_frame]) (by rw [writeRun0_frame]) (writeRun0_init s)
  post _ kind notify a s h := by rw [postAtCursor_frame]; exact h
  board _ h := h

/-- Settles O48: the induction over the part's events. -/
theorem everyStepKeepsTheHoldLaw : Obligations.EveryStepKeepsTheHoldLaw :=
  keptByEvents_holdLaw.step (fun _ => trivial) fun _ _ h => h

/-! ### The states an entry may stand in (R102) -/

/-- The entry is a chain's stuck-drive entry. -/
def StuckDrive (id : Fin 19) : Prop :=
  id.val < 16 ∧ id.val % 4 = 2

theorem latches_iff (id : Fin 19) : latches id = true ↔ StuckDrive id := by
  simp [latches, StuckDrive]

theorem stuckDrive_chainEntry (c k : Fin 4) : StuckDrive (chainEntry c k) ↔ k = 2 := by
  unfold StuckDrive chainEntry
  dsimp only
  omega

theorem StuckDrive.exists_chain {id : Fin 19} (h : StuckDrive id) : ∃ c, id = chainEntry c 2 := by
  obtain ⟨hlt, hmod⟩ := h
  refine ⟨⟨id.val / 4, by omega⟩, Fin.ext ?_⟩
  simp only [chainEntry]
  omega

/-- Only a stuck-drive entry is LATCHED, and none acts. -/
def LawfulAt (id : Fin 19) (st : CondState) : Prop :=
  (st = .latched → StuckDrive id) ∧ (StuckDrive id → st.acting = false)

theorem lawfulAt_clear (id : Fin 19) : LawfulAt id .clear := ⟨nofun, fun _ => rfl⟩

theorem lawfulAt_alert (id : Fin 19) : LawfulAt id .alert := ⟨nofun, fun _ => rfl⟩

theorem trippedEntry_lawful (id : Fin 19) (e : CondEntry) : LawfulAt id (trippedEntry id e).state := by
  unfold trippedEntry LawfulAt
  rw [← latches_iff]
  cases latches id <;> simp [CondState.acting]

/-- A lawful entry that acts is no stuck-drive entry, so it may act on. -/
theorem LawfulAt.of_acting {id : Fin 19} {st st' : CondState} (h : LawfulAt id st) (ha : st.acting = true)
    (hl : st' ≠ .latched) : LawfulAt id st' :=
  ⟨fun he => absurd he hl, fun hs => absurd ((h.2 hs).symm.trans ha) Bool.false_ne_true⟩

theorem moveEntry_lawful {id : Fin 19} {e : CondEntry} (h : LawfulAt id e.state) (side : Side) :
    LawfulAt id (moveEntry id e side).state := by
  unfold moveEntry
  split
  · split
    · exact trippedEntry_lawful id e
    · exact lawfulAt_alert id
  · exact lawfulAt_clear id
  · split
    · exact trippedEntry_lawful id e
    · exact h
  · exact lawfulAt_clear id
  · next he =>
    split
    · exact lawfulAt_clear id
    · exact h.of_acting (by rw [he]; rfl) nofun
  · exact h
  · split
    · exact lawfulAt_clear id
    · exact h
  · next he _ => exact h.of_acting (by rw [he]; rfl) nofun
  · exact h

theorem evaluateEntry_lawful {id : Fin 19} {e : CondEntry} (h : LawfulAt id e.state) (side : Option Side) :
    LawfulAt id (evaluateEntry id e side).state := by
  unfold evaluateEntry
  split
  · exact h
  · split
    · exact h
    · split
      · exact lawfulAt_clear id
      · exact moveEntry_lawful h _

theorem setupEntry_state (trip : Int) (dwell : Nat) (recovery : Int) (hold : Nat) (cap : Int) (e : CondEntry) :
    (setupEntry trip dwell recovery hold cap e).state = .clear ∨
      (setupEntry trip dwell recovery hold cap e).state = e.state := by
  unfold setupEntry
  dsimp only
  split
  · exact .inl rfl
  · exact .inr rfl

theorem setupEntry_lawful {id : Fin 19} {e : CondEntry} (h : LawfulAt id e.state) (trip : Int) (dwell : Nat)
    (recovery : Int) (hold : Nat) (cap : Int) :
    LawfulAt id (setupEntry trip dwell recovery hold cap e).state := by
  obtain he | he := setupEntry_state trip dwell recovery hold cap e
  · rw [he]
    exact lawfulAt_clear id
  · rwa [he]

/-! ### The cut requests (R107) -/

/-- The law entry by entry, and the cut requests as the entries call for them. -/
theorem cutLaw_iff (s : State) :
    CutLaw s ↔ (∀ id, LawfulAt id (condState s id)) ∧
      ∀ c, s.supervisor.cutRequest.get c = cutWanted s.supervisor.entries c := by
  constructor
  · rintro ⟨hlatched, hacting, hcut⟩
    refine ⟨fun id => ⟨hlatched id, fun hs => ?_⟩, hcut⟩
    obtain ⟨c, rfl⟩ := hs.exists_chain
    exact hacting c
  · rintro ⟨hlawful, hcut⟩
    exact ⟨fun id => (hlawful id).1, fun c => (hlawful _).2 ((stuckDrive_chainEntry c 2).2 rfl), hcut⟩

theorem evaluateTable_cutLaw {s : State} (h : CutLaw s) : CutLaw (evaluateTable s) := by
  rw [cutLaw_iff] at h ⊢
  refine ⟨fun id => ?_, fun c => ?_⟩
  · rw [condState, evaluateTable_entries, evaluatedEntries, vmapIdx_get]
    exact evaluateEntry_lawful (h.1 id) _
  · rw [evaluateTable_cutRequest, evaluateTable_entries, PerChain.get_ofFn]

theorem vector_set_get {α : Type} {n : Nat} (v : Vector α n) (i j : Fin n) (a : α) :
    (v.set i.val a i.isLt)[j] = if i = j then a else v[j] := by
  simp only [Fin.getElem_fin, Vector.getElem_set, Fin.ext_iff]

theorem replaceEntry_condState (id k : Fin 19) (e : CondEntry) (s : State) :
    condState (replaceEntry id e s) k = if id = k then e.state else condState s k := by
  rw [condState, replaceEntry_entries, vector_set_get]
  split <;> rfl

theorem replaceEntry_cutLaw {id : Fin 19} {e : CondEntry} {s : State} (h : CutLaw s) (he : LawfulAt id e.state) :
    CutLaw (replaceEntry id e s) := by
  rw [cutLaw_iff] at h ⊢
  refine ⟨fun k => ?_, fun c => ?_⟩
  · rw [replaceEntry_condState]
    split
    · next hk => exact hk ▸ he
    · exact h.1 k
  · rw [replaceEntry_cutRequest, replaceEntry_entries, PerChain.get_ofFn]

theorem releaseLatch_cutLaw {c : Chain} {s : State} (h : CutLaw s) : CutLaw (releaseLatch c s) :=
  replaceEntry_cutLaw (s := putFault c _) h (lawfulAt_clear _)

theorem chainLatched_iff (s : State) (c : Chain) :
    chainLatched s c = true ↔ ∃ k, condState s (chainEntry c k) = .latched := by
  simp only [chainLatched, Bool.or_eq_true, decide_eq_true_eq]
  constructor
  · rintro (((h | h) | h) | h)
    exacts [⟨0, h⟩, ⟨1, h⟩, ⟨2, h⟩, ⟨3, h⟩]
  · rintro ⟨k, h⟩
    match k with
    | 0 => exact .inl (.inl (.inl h))
    | 1 => exact .inl (.inl (.inr h))
    | 2 => exact .inl (.inr h)
    | 3 => exact .inr h

/-- Under the law a chain is latched by its stuck-drive entry. -/
theorem chainLatched_of_cutLaw {s : State} (h : CutLaw s) (c : Chain) :
    chainLatched s c = decide (condState s (chainEntry c 2) = .latched) := by
  rw [Bool.eq_iff_iff, chainLatched_iff, decide_eq_true_eq]
  refine ⟨fun ⟨k, hk⟩ => ?_, fun hk => ⟨2, hk⟩⟩
  rwa [(stuckDrive_chainEntry c k).1 (h.1 _ hk)] at hk

theorem warmEntry_state (id : Fin 19) (e : CondEntry) :
    (warmEntry id e).state = if e.state = .latched then .latched else .clear := rfl

theorem warmReset_condState (s : State) (id : Fin 19) :
    condState (warmReset s) id = if condState s id = .latched then .latched else .clear := by
  rw [warmReset_frame, condState]
  simp only [warmBlocks, warmSupervisor]
  rw [vmapIdx_get]
  rfl

theorem warmReset_cutLaw {s : State} (h : CutLaw s) : CutLaw (warmReset s) := by
  refine ⟨fun id hid => ?_, fun c => ?_, fun c => ?_⟩
  · rw [warmReset_condState] at hid
    split at hid
    · next hl => exact h.1 id hl
    · cases hid
  · rw [warmReset_condState]
    split <;> rfl
  · have hc : (warmReset s).supervisor.cutRequest.get c = chainLatched s c := by
      rw [warmReset_frame]
      simp [warmBlocks, warmSupervisor]
    rw [hc, chainLatched_of_cutLaw h, warmReset_condState, warmReset_condState]
    by_cases h0 : condState s (chainEntry c 0) = .latched
    · exact absurd ((stuckDrive_chainEntry c 0).1 (h.1 _ h0)) (by decide)
    · by_cases h2 : condState s (chainEntry c 2) = .latched <;> simp [h0, h2, CondState.acting]

theorem powerOnReset_condState (s : State) (id : Fin 19) : condState (powerOnReset s) id = .clear := by
  simp only [condState, powerOnReset, State.reset, supervisorAtPowerOn, Fin.getElem_fin, Vector.getElem_ofFn]
  unfold condDefault
  split_ifs <;> rfl

theorem powerOnReset_cutLaw (s : State) : CutLaw (powerOnReset s) := by
  refine ⟨fun id h => ?_, fun c => ?_, fun c => ?_⟩
  · rw [powerOnReset_condState] at h
    cases h
  · rw [powerOnReset_condState]
    rfl
  · rw [powerOnReset_condState, powerOnReset_condState]
    simp [powerOnReset, State.reset, supervisorAtPowerOn, CondState.acting]

theorem keptByEvents_cutLaw : KeptByEvents (fun _ => True) CutLaw where
  powerOn _ s _ := powerOnReset_cutLaw s
  warm _ _ h := warmReset_cutLaw h
  pins _ _ h := h
  prepare _ _ _ h _ := h
  activatePrepared _ p s h _ _ := by rw [activatePrepared_frame]; exact h
  activateOrphan _ s h _ _ := by rw [activateOrphan_frame]; exact h
  transfer ack s h := by rw [transferCompleted_frame]; exact h
  estimator _ _ h := h
  watch _ _ h _ := h
  stop _ why stamp s h := by rw [requestStop_frame]; exact h
  table _ _ h := evaluateTable_cutLaw h
  scanDone _ raw s h := by rw [scanCompleted_frame]; exact h
  setupSlots _ _ _ _ _ _ h _ _ _ _ := h
  setupChain _ _ _ _ h _ _ _ _ _ _ := h
  setupCondition _ id _ _ _ _ _ _ h _ :=
    replaceEntry_cutLaw h (setupEntry_lawful (((cutLaw_iff _).1 h).1 id) _ _ _ _ _)
  setupSupply _ _ _ h _ := h
  setupChannel _ _ _ _ h _ _ _ _ _ := h
  loadTaken _ _ _ h := h
  drop _ _ _ h := h
  measuring _ _ _ h _ _ := h
  captureOn _ _ _ _ _ h _ _ _ _ _ := h
  captureOff _ _ h := h
  release _ _ _ h _ _ := releaseLatch_cutLaw h
  discard _ _ _ h _ := h
  complete _ _ _ _ _ s h _ := by rw [completeEntry_frame]; exact h
  active _ _ _ h _ _ := h
  timer _ _ _ _ h _ _ := h
  measure _ _ _ _ h _ := h
  loadDone _ s h _ := by rw [finishLoad_frame]; exact h
  calibrate _ _ s h _ := by rw [applyCalibration_frame]; exact h
  settle _ _ h _ := h
  captureStep _ s h := by rw [captureStep_frame]; exact h
  burst b s h _ := by rw [quietAfterBurst_frame, landBurst_frame]; exact h
  stoppedIfQuiet s h := by rw [enterStoppedIfQuiet_frame]; exact h
  host _ _ _ _ h := h
  reading _ _ _ h := h
  ncause v s h := by rw [writeNcause_frame]; exact h
  nmask _ _ h := h
  run1 s h := by rw [writeRun1_frame]; exact h
  run0 s h := by rw [writeRun0_frame]; exact h
  post _ kind notify a s h := by rw [postAtCursor_frame]; exact h
  board _ h := h

/-- Settles O40: the induction over the part's events. -/
theorem everyStepKeepsTheCutRequests : Obligations.EveryStepKeepsTheCutRequests :=
  keptByEvents_cutLaw.step (fun _ => trivial) fun _ _ h => h

end Sys2Proof.Machine
end

section
/-! The bounds of grants, attenuations and budgets (R41 to R45, R57): what a prepare decides, what a cut leaves of it, and that
every step keeps the bounds. -/

namespace Sys2Proof.Machine

/-! ### A bounded slot -/

/-- The budget used of a prepared slot is the current of its chains ON and within its budget; its chains ON are bounded. -/
def Prepared.Bounded (p : Prepared) : Prop :=
  p.budgetUsed ≤ p.budget ∧
    p.budgetUsed = (p.chains.get 0).verdict.current + (p.chains.get 1).verdict.current +
      (p.chains.get 2).verdict.current + (p.chains.get 3).verdict.current ∧
    ∀ c r, (p.chains.get c).verdict = .on r → r.Bounded

/-- Every chain ON in force or in the pending slot is bounded. -/
def SlotEngine.Bounded (e : SlotEngine) : Prop :=
  (∀ c r, (e.inForce.get c).force = .on r → r.Bounded) ∧ ∀ p, e.prepared = some p → p.Bounded

theorem decisionLaw_iff (s : State) : DecisionLaw s ↔ DecisionInputs s ∧ s.slot.Bounded := by
  unfold DecisionLaw DecisionInputs SlotEngine.Bounded Prepared.Bounded
  tauto

/-- A slot of the same in-force records and the same pending slot. -/
theorem SlotEngine.Bounded.of_eq {e f : SlotEngine} (hf : f.inForce = e.inForce) (hp : f.prepared = e.prepared)
    (h : e.Bounded) : f.Bounded := by
  unfold SlotEngine.Bounded at *
  rwa [hf, hp]

/-- With every chain muted and no slot pending there is nothing to bound. -/
theorem SlotEngine.bounded_of_muted {e : SlotEngine} (hf : ∀ c, (e.inForce.get c).force = .muted)
    (hp : e.prepared = none) : e.Bounded :=
  ⟨fun c _ h => absurd ((hf c).symm.trans h) nofun, fun _ h => absurd (hp.symm.trans h) nofun⟩

/-! ### A cut (R17) -/

/-- A decision after a cut draws nothing. -/
theorem cutDecision_current (why : Reason) (d : Decision) : (cutDecision why d).verdict.current = 0 := by
  unfold cutDecision
  split
  · rfl
  · rfl
  · next h => rw [h]; rfl

theorem cutDecision_not_on (why : Reason) (d : Decision) (r : OnRecord) : (cutDecision why d).verdict ≠ .on r := by
  unfold cutDecision
  split
  · exact nofun
  · exact nofun
  · next h => rw [h]; exact nofun

theorem cutPrepared_bounded (c : Chain) (why : Reason) {p : Prepared} (h : p.Bounded) :
    (cutPrepared c why p).Bounded := by
  obtain ⟨hle, hsum, hon⟩ := h
  refine ⟨(Nat.sub_le _ _).trans hle, ?_, fun d r hr => ?_⟩
  · have hcur : ∀ d, ((cutPrepared c why p).chains.get d).verdict.current =
        if d = c then 0 else (p.chains.get d).verdict.current := by
      intro d
      rw [cutPrepared_chains]
      split
      · exact cutDecision_current why _
      · rfl
    have hu : (cutPrepared c why p).budgetUsed = p.budgetUsed - (p.chains.get c).verdict.current := rfl
    rw [hu, hcur 0, hcur 1, hcur 2, hcur 3, hsum]
    match c with
    | 0 | 1 | 2 | 3 => simp <;> omega
  · rw [cutPrepared_chains] at hr
    split at hr
    · exact absurd hr (cutDecision_not_on why _ r)
    · exact hon d r hr

theorem tripsDecided_bounded (atTrip : Bool) (s : State) {p : Prepared} (h : p.Bounded) :
    (tripsDecided atTrip s p).Bounded := by
  have one (c : Chain) {q : Prepared} (hq : q.Bounded) : (tripDecided atTrip s c q).Bounded := by
    unfold tripDecided
    split
    · exact cutPrepared_bounded _ _ hq
    · exact hq
  exact one 3 (one 2 (one 1 (one 0 h)))

theorem syncCut_slotBounded {s : State} (c : Chain) (h : s.slot.Bounded) : (syncCut s c).slot.Bounded := by
  refine ⟨fun d r hr => ?_, fun p hp => ?_⟩
  · rw [syncCut_inForce] at hr
    split at hr
    · cases hr
    · exact h.1 d r hr
  · rw [syncCut_prepared] at hp
    split at hp
    · obtain ⟨q, hq, rfl⟩ := Option.map_eq_some_iff.1 hp
      exact cutPrepared_bounded _ _ (h.2 q hq)
    · exact h.2 p hp

theorem syncCuts_slotBounded {s : State} (h : s.slot.Bounded) : (syncCuts s).slot.Bounded := by
  simp only [syncCuts, assertMutes, mapDrive_slot]
  exact syncCut_slotBounded 3 (syncCut_slotBounded 2 (syncCut_slotBounded 1 (syncCut_slotBounded 0 h)))

theorem synced_slot (b : Bool) (k : Cause) (s : State) : (setCauseIf b k (syncCuts s)).slot = (syncCuts s).slot := by
  rw [setCauseIf_frame]

theorem evaluateTable_slotBounded {s : State} (h : s.slot.Bounded) : (evaluateTable s).slot.Bounded := by
  unfold evaluateTable
  dsimp only
  rw [synced_slot]
  refine syncCuts_slotBounded ?_
  rw [recordLatches_frame]
  exact h.of_eq rfl rfl

theorem replaceEntry_slotBounded {s : State} (id : Fin 19) (e : CondEntry) (h : s.slot.Bounded) :
    (replaceEntry id e s).slot.Bounded := by
  unfold replaceEntry
  rw [synced_slot]
  exact syncCuts_slotBounded (h.of_eq rfl rfl)

/-! ### A prepare (R5 to R11) -/

theorem mutedForMisses_current (s : State) (c : Chain) : ((mutedForMisses s).chains.get c).verdict.current = 0 := by
  simp [mutedForMisses, Verdict.current]

theorem prepareDecisions_bounded {s : State} (h : DecisionInputs s) (e : Intent) (budget : Nat) (n : Half)
    (status st : Status) (miss : Nat) :
    let r := prepareDecisions s e budget status
    Prepared.Bounded ⟨n, st, miss, budget, r.used, r.chains⟩ := by
  have muted : Prepared.Bounded ⟨n, st, miss, budget, (mutedForMisses s).used, (mutedForMisses s).chains⟩ := by
    refine ⟨Nat.zero_le _, ?_, fun c r hr => ?_⟩
    · simp only [mutedForMisses_current]
      rfl
    · simp [mutedForMisses] at hr
  cases status with
  | taken => exact computeGrants_spec h budget _
  | held => exact computeGrants_spec h budget _
  | missed => exact muted
  | unprepared => exact muted
  | cancelled => exact muted

/-- What a prepare leaves pending, before the trips of its own instant. -/
def decidedSlot (s : State) : Prepared :=
  let e := readIntent s.xm s.slot.n
  let isTaken := taken s.slot.n e
  let miss := missCountAt isTaken s.slot.carriedMiss
  let status := prepareStatus isTaken miss s.slot.holdLimit
  let result := prepareDecisions s e (effectiveBudget s) status
  ⟨s.slot.n, status, miss, effectiveBudget s, result.used, result.chains⟩

theorem prepare_prepared (atTrip : Bool) (s : State) :
    (prepare atTrip s).slot.prepared = some (tripsDecided atTrip s (decidedSlot s)) := rfl

theorem prepare_inForce (atTrip : Bool) (s : State) : (prepare atTrip s).slot.inForce = s.slot.inForce := rfl

theorem prepare_slotBounded {s : State} (atTrip : Bool) (hi : DecisionInputs s) (h : s.slot.Bounded) :
    (prepare atTrip s).slot.Bounded := by
  refine ⟨h.1, fun p hp => ?_⟩
  rw [prepare_prepared] at hp
  rw [← Option.some.inj hp]
  exact tripsDecided_bounded atTrip s (prepareDecisions_bounded hi _ _ _ _ _ _)

/-! ### An activation (R12) -/

/-- What ends an activation leaves no slot pending. -/
theorem activation_prepared (o : SlotOutcome) (s : State) :
    (settleMutes (advanceSlot (writeOutcome o s))).slot.prepared = none := by
  rw [writeOutcome_frame]
  rfl

/-- A chain ON in force after an activation was decided ON or was ON before. -/
theorem takeForce_on {old : InForce} {d : Decision} {result : DriveResult} {r : OnRecord}
    (h : (takeForce old d result).force = .on r) : d.verdict = .on r ∨ old.force = .on r := by
  unfold takeForce at h
  split at h
  · cases h
  · next hv =>
    split at h
    · exact .inl (hv.trans (congrArg Verdict.on (Force.on.inj h)))
    · exact .inr h
  · split at h
    · cases h
    · exact .inr h

theorem activatePrepared_inForce (p : Prepared) (s : State) (c : Chain) :
    (activatePrepared p s).slot.inForce.get c =
      takeForce (s.slot.inForce.get c) (p.chains.get c) (s.drive.chains.get c).fate.result := by
  rw [activatePrepared, (activation_end _ _).2]
  simp [chargeAll, bringIntoForce]

theorem activateOrphan_inForce (s : State) : (activateOrphan s).slot.inForce = s.slot.inForce := by
  rw [activateOrphan, (activation_end _ _).2]
  rfl

theorem activatePrepared_slotBounded {s : State} {p : Prepared} (hp : s.slot.prepared = some p) (h : s.slot.Bounded) :
    (activatePrepared p s).slot.Bounded := by
  refine ⟨fun c r hr => ?_, fun q hq => ?_⟩
  · rw [activatePrepared_inForce] at hr
    obtain hd | hold := takeForce_on hr
    · exact (h.2 p hp).2.2 c r hd
    · exact h.1 c r hold
  · rw [activatePrepared, activation_prepared] at hq
    cases hq

theorem activateOrphan_slotBounded {s : State} (h : s.slot.Bounded) : (activateOrphan s).slot.Bounded := by
  refine ⟨fun c r hr => ?_, fun q hq => ?_⟩
  · rw [activateOrphan_inForce] at hr
    exact h.1 c r hr
  · rw [activateOrphan, activation_prepared] at hq
    cases hq

/-! ### Leaving RUNNING (R18) -/

theorem enterStoppedIfQuiet_slot (s : State) : (enterStoppedIfQuiet s).slot = s.slot := by
  rw [enterStoppedIfQuiet_frame]

/-- The Slot Engine after a stop request: as before where it is dropped, else with its slots left. -/
theorem requestStop_slot_cases (why : StopReason) (stamp : Stamp) (s : State) :
    (requestStop why stamp s = s) ∨
      (requestStop why stamp s).slot = (leaveSlots stamp (beginStopping why s)).slot := by
  unfold requestStop
  split
  · right
    rw [enterStoppedIfQuiet_slot]
    rfl
  · exact .inl rfl

theorem leaveSlots_slotBounded (stamp : Stamp) (s : State) : (leaveSlots stamp s).slot.Bounded := by
  obtain ⟨hp, hf, -⟩ := leaveSlots_slot stamp s
  exact SlotEngine.bounded_of_muted (fun c => by rw [hf, PerChain.get_fill]; rfl) hp

theorem requestStop_slotBounded {s : State} (why : StopReason) (stamp : Stamp) (h : s.slot.Bounded) :
    (requestStop why stamp s).slot.Bounded := by
  obtain he | he := requestStop_slot_cases why stamp s
  · rwa [he]
  · rw [he]
    exact leaveSlots_slotBounded _ _

theorem writeRun0_slotBounded {s : State} (h : s.slot.Bounded) : (writeRun0 s).slot.Bounded := by
  unfold writeRun0
  split
  · exact h
  · exact h
  · exact leaveSlots_slotBounded s.thermal.steps s
  · exact h
  · exact h

/-! ### The watch alone -/

theorem countScan_slot (s : State) : (countScan s).slot = { s.slot with watch := (countScan s).slot.watch } := by
  unfold countScan leaveInit
  dsimp only
  split
  · split
    · split <;> rfl
    · rfl
  · rfl

theorem scanCompleted_slot (raw : Vector (BitVec 12) 11) (s : State) :
    (scanCompleted raw s).slot = { s.slot with watch := (scanCompleted raw s).slot.watch } := by
  unfold scanCompleted
  split
  · exact countScan_slot _
  · split
    · exact countScan_slot _
    · rfl
  · rfl
  · rfl

theorem writeRun1_slot (s : State) : (writeRun1 s).slot = { s.slot with watch := (writeRun1 s).slot.watch } := by
  unfold writeRun1
  split <;> rfl

/-! ### The floors and caps (R26, R93) -/

/-- The caps lie in their range, entry by entry. -/
def CapsInRange (entries : Vector CondEntry 19) : Prop :=
  ∀ id : Fin 19, capsPower id = true → -200 ≤ entries[id].cap ∧ entries[id].cap ≤ 120

theorem decisionInputs_iff (s : State) : DecisionInputs s ↔
    (∀ c, -80 ≤ (s.config.get c).floor ∧ (s.config.get c).floor ≤ 120) ∧ CapsInRange s.supervisor.entries := Iff.rfl

theorem moveEntry_cap (id : Fin 19) (e : CondEntry) (side : Side) : (moveEntry id e side).cap = e.cap := by
  unfold moveEntry
  split <;> (try split) <;> rfl

theorem evaluateEntry_cap (id : Fin 19) (e : CondEntry) (side : Option Side) :
    (evaluateEntry id e side).cap = e.cap := by
  unfold evaluateEntry
  split
  · rfl
  · split
    · rfl
    · split
      · rfl
      · exact moveEntry_cap id e _

theorem evaluateTable_caps {s : State} (h : CapsInRange s.supervisor.entries) :
    CapsInRange (evaluateTable s).supervisor.entries := by
  intro id hid
  rw [evaluateTable_entries, evaluatedEntries, vmapIdx_get, evaluateEntry_cap]
  exact h id hid

theorem replaceEntry_caps {s : State} {id : Fin 19} {e : CondEntry} (h : CapsInRange s.supervisor.entries)
    (he : capsPower id = true → -200 ≤ e.cap ∧ e.cap ≤ 120) : CapsInRange (replaceEntry id e s).supervisor.entries := by
  intro k hk
  rw [replaceEntry_entries, vector_set_get]
  split
  · next heq => exact he (heq ▸ hk)
  · exact h k hk

theorem setupEntry_cap (trip : Int) (dwell : Nat) (recovery : Int) (hold : Nat) (cap : Int) (e : CondEntry) :
    (setupEntry trip dwell recovery hold cap e).cap = cap := by
  unfold setupEntry
  dsimp only
  split <;> rfl

/-- The cap of an accepted CONDITION_SETUP lies in its range, where it holds a power. -/
theorem cap_of_no_fault {id : Fin 19} {trip recovery cap : Int} (h : condSetupFault id trip recovery cap = none)
    (hid : capsPower id = true) : -200 ≤ cap ∧ cap ≤ 120 := by
  have hc : capInRange id cap = true := by
    unfold condSetupFault at h
    split_ifs at h with h1 h2 h3
    simpa using h3
  have hkind : ¬16 < id.val ∧ (id.val = 16 ∨ id.val % 4 = 1 ∨ id.val % 4 = 3) := by
    simp only [capsPower, Bool.or_eq_true, decide_eq_true_eq] at hid
    omega
  unfold capInRange at hc
  rw [if_neg hkind.1, if_pos hkind.2] at hc
  simpa using hc

theorem condDefault_caps : CapsInRange (Vector.ofFn condDefault) := by
  intro id
  rw [Fin.getElem_fin, Vector.getElem_ofFn]
  revert id
  decide

theorem warmEntry_cap (id : Fin 19) (e : CondEntry) : (warmEntry id e).cap = (condDefault id).cap := rfl

theorem warmReset_caps (s : State) : CapsInRange (warmReset s).supervisor.entries := by
  intro id hid
  rw [warmReset_frame]
  simp only [warmBlocks, warmSupervisor]
  rw [vmapIdx_get, warmEntry_cap]
  have := condDefault_caps id hid
  rwa [Fin.getElem_fin, Vector.getElem_ofFn] at this

theorem configDefault_floor {s : State} (h : s.config = .fill configDefault) (c : Chain) :
    -80 ≤ (s.config.get c).floor ∧ (s.config.get c).floor ≤ 120 := by
  rw [h, PerChain.get_fill]
  decide

/-! ### The law -/

theorem powerOnReset_decisionLaw (s : State) : DecisionLaw (powerOnReset s) :=
  (decisionLaw_iff _).2 ⟨⟨configDefault_floor rfl, condDefault_caps⟩,
    SlotEngine.bounded_of_muted (fun c => by simp [powerOnReset, State.reset, slotAtReset, mutedByGovernor]) rfl⟩

theorem warmInForce_force (s : State) (c : Chain) : (warmInForce s c).force = .muted := by
  unfold warmInForce
  split <;> rfl

theorem warmReset_slotBounded (s : State) : (warmReset s).slot.Bounded := by
  rw [warmReset_frame]
  exact SlotEngine.bounded_of_muted (fun c => by simp only [warmBlocks, PerChain.get_ofFn, warmInForce_force]) rfl

theorem warmReset_decisionLaw (s : State) : DecisionLaw (warmReset s) :=
  (decisionLaw_iff _).2 ⟨⟨configDefault_floor (by rw [warmReset_frame]; rfl), warmReset_caps s⟩, warmReset_slotBounded s⟩

/-- The law with another Slot Engine, floors and caps as before. -/
theorem DecisionLaw.of_slot {s t : State} (hc : t.config = s.config) (he : t.supervisor.entries = s.supervisor.entries)
    (ht : s.slot.Bounded → t.slot.Bounded) (h : DecisionLaw s) : DecisionLaw t := by
  rw [decisionLaw_iff] at h ⊢
  refine ⟨?_, ht h.2⟩
  unfold DecisionInputs
  rw [hc, he]
  exact h.1

theorem evaluateTable_decisionLaw {s : State} (h : DecisionLaw s) : DecisionLaw (evaluateTable s) := by
  rw [decisionLaw_iff] at h ⊢
  exact ⟨⟨by rw [evaluateTable_frame]; exact h.1.1, evaluateTable_caps h.1.2⟩, evaluateTable_slotBounded h.2⟩

theorem replaceEntry_decisionLaw {s : State} {id : Fin 19} {e : CondEntry} (h : DecisionLaw s)
    (he : capsPower id = true → -200 ≤ e.cap ∧ e.cap ≤ 120) : DecisionLaw (replaceEntry id e s) := by
  rw [decisionLaw_iff] at h ⊢
  exact ⟨⟨by rw [replaceEntry_frame]; exact h.1.1, replaceEntry_caps h.1.2 he⟩, replaceEntry_slotBounded id e h.2⟩

theorem releaseLatch_decisionLaw {s : State} (c : Chain) (h : DecisionLaw s) : DecisionLaw (releaseLatch c s) :=
  replaceEntry_decisionLaw (s := putFault c _) h (h.2.1 _)

theorem setupChain_decisionLaw {s : State} (h : DecisionLaw s) (c : Chain) {k : ChainConfig} (hlo : -80 ≤ k.floor)
    (hhi : k.floor ≤ 120) : DecisionLaw { s with config := s.config.set c k } := by
  refine ⟨fun d => ?_, h.2⟩
  simp only [PerChain.get_set]
  split
  · exact ⟨hlo, hhi⟩
  · exact h.1 d

theorem keptByEvents_decisionLaw : KeptByEvents (fun _ => True) DecisionLaw where
  powerOn _ s _ := powerOnReset_decisionLaw s
  warm _ s _ := warmReset_decisionLaw s
  pins _ _ h := h
  prepare _ atTrip s h _ := DecisionLaw.of_slot (s := s) rfl rfl (prepare_slotBounded atTrip ((decisionLaw_iff s).1 h).1) h
  activatePrepared _ p s h _ hp := h.of_slot (by rw [activatePrepared_frame]) (by rw [activatePrepared_frame])
    (activatePrepared_slotBounded hp)
  activateOrphan _ s h _ _ := h.of_slot (by rw [activateOrphan_frame]) (by rw [activateOrphan_frame])
    activateOrphan_slotBounded
  transfer ack s h := by rw [transferCompleted_frame]; exact h
  estimator _ _ h := h
  watch _ _ h _ := h
  stop _ why stamp s h := h.of_slot (by rw [requestStop_frame]) (by rw [requestStop_frame])
    (requestStop_slotBounded why stamp)
  table _ _ h := evaluateTable_decisionLaw h
  scanDone _ raw s h := h.of_slot (by rw [scanCompleted_frame]) (by rw [scanCompleted_frame])
    (SlotEngine.Bounded.of_eq (by rw [scanCompleted_slot]) (by rw [scanCompleted_slot]))
  setupSlots _ _ _ _ _ _ h _ _ _ _ := h
  setupChain _ c _ _ h _ _ hlo hhi _ _ := setupChain_decisionLaw h c hlo hhi
  setupCondition _ id _ _ _ _ _ _ h hf :=
    replaceEntry_decisionLaw h fun hid => by rw [setupEntry_cap]; exact cap_of_no_fault hf hid
  setupSupply _ _ _ h _ := h
  setupChannel _ _ _ _ h _ _ _ _ _ := h
  loadTaken _ _ _ h := h
  drop _ _ _ h := h
  measuring _ _ _ h _ _ := h
  captureOn _ _ _ _ _ h _ _ _ _ _ := h
  captureOff _ _ h := h
  release _ c _ h _ _ := releaseLatch_decisionLaw c h
  discard _ _ _ h _ := h
  complete _ _ _ _ _ s h _ := by rw [completeEntry_frame]; exact h
  active _ _ _ h _ _ := h
  timer _ _ _ _ h _ _ := h
  measure _ _ _ _ h _ := h
  loadDone _ s h _ := by rw [finishLoad_frame]; exact h
  calibrate _ _ s h _ := by rw [applyCalibration_frame]; exact h
  settle _ _ h _ := h
  captureStep _ s h := by rw [captureStep_frame]; exact h
  burst b s h _ := by rw [quietAfterBurst_frame, landBurst_frame]; exact h
  stoppedIfQuiet s h := by rw [enterStoppedIfQuiet_frame]; exact h
  host _ _ _ _ h := h
  reading _ _ _ h := h
  ncause v s h := by rw [writeNcause_frame]; exact h
  nmask _ _ h := h
  run1 s h := h.of_slot (by rw [writeRun1_frame]) (by rw [writeRun1_frame])
    (SlotEngine.Bounded.of_eq (by rw [writeRun1_slot]) (by rw [writeRun1_slot]))
  run0 s h := h.of_slot (by rw [writeRun0_frame]) (by rw [writeRun0_frame]) writeRun0_slotBounded
  post _ kind notify a s h := by rw [postAtCursor_frame]; exact h
  board _ h := h

/-- Settles O13: the induction over the part's events, from what the Grant Computer answers at a prepare. -/
theorem everyStepKeepsDecisionsBounded : Obligations.EveryStepKeepsDecisionsBounded :=
  keptByEvents_decisionLaw.step (fun _ => trivial) fun _ _ h => h

end Sys2Proof.Machine
end

section
/-! The governor's law, the pending slot outside RUNNING and the MUTE lines (R17, R20, R79, R144 to R147, R170, R175, R176):
what each event makes of them, that every step keeps them, and that an activation alone releases a line. -/

namespace Sys2Proof.Machine

/-! ### The pending slot (R17, R20, R79) -/

/-- The law where the slots are the same and RUNNING is not left. -/
theorem PendingLaw.of_eq {s t : State} (hp : t.slot.prepared = s.slot.prepared) (hf : t.slot.inForce = s.slot.inForce)
    (hj : t.slot.justCut = s.slot.justCut) (hr : s.governor.state = .running → t.governor.state = .running)
    (h : PendingLaw s) : PendingLaw t := by
  obtain ⟨hout, hcut⟩ := h
  unfold PendingLaw
  rw [hp, hf, hj]
  exact ⟨fun hn => hout fun hs => hn (hr hs), fun c hc => ⟨hr (hcut c hc).1, (hcut c hc).2⟩⟩

/-- The law in RUNNING with no chain just cut. -/
theorem pendingLaw_of_running {s : State} (hr : s.governor.state = .running) (hj : s.slot.justCut = .fill false) :
    PendingLaw s :=
  ⟨fun hn => absurd hr hn, fun c hc => by rw [hj, PerChain.get_fill] at hc; cases hc⟩

/-- The law with every chain muted in force, no slot pending and no chain just cut. -/
theorem pendingLaw_of_left {s : State} (hp : s.slot.prepared = none) (hf : ∀ c, (s.slot.inForce.get c).force = .muted)
    (hj : s.slot.justCut = .fill false) : PendingLaw s :=
  ⟨fun _ => ⟨hp, hf⟩, fun c hc => by rw [hj, PerChain.get_fill] at hc; cases hc⟩

theorem cutReason_cases (s : State) (c : Chain) : cutReason s c = .cut ∨ cutReason s c = .lock := by
  unfold cutReason
  split
  · exact .inr rfl
  · exact .inl rfl

theorem syncCuts_governor (s : State) : (syncCuts s).governor = s.governor := by rw [syncCuts_frame]

theorem syncCuts_prepared_none {s : State} (h : s.slot.prepared = none) : (syncCuts s).slot.prepared = none := by
  simp [syncCuts, assertMutes, syncCut_prepared, h]

theorem syncCuts_pendingLaw {s : State} (h : PendingLaw s) : PendingLaw (syncCuts s) := by
  obtain ⟨hout, hcut⟩ := h
  refine ⟨fun hn => ?_, fun c hc => ?_⟩
  · rw [syncCuts_governor] at hn
    obtain ⟨hp, hf⟩ := hout hn
    refine ⟨syncCuts_prepared_none hp, fun c => ?_⟩
    rw [syncCuts_inForce]
    split
    · rfl
    · exact hf c
  · rw [syncCuts_justCut] at hc
    rw [syncCuts_inForce, syncCuts_governor]
    split at hc
    · next hr =>
      rw [if_pos hr]
      refine ⟨of_decide_eq_true hc, ?_⟩
      obtain he | he := cutReason_cases s c <;> simp [he]
    · next hr =>
      rw [if_neg hr]
      exact hcut c hc

theorem synced_governor (b : Bool) (k : Cause) (s : State) :
    (setCauseIf b k (syncCuts s)).governor = s.governor := by
  rw [setCauseIf_frame, syncCuts_frame]

theorem synced_pendingLaw {s : State} (b : Bool) (k : Cause) (h : PendingLaw s) :
    PendingLaw (setCauseIf b k (syncCuts s)) :=
  PendingLaw.of_eq (s := syncCuts s) (by rw [setCauseIf_frame]) (by rw [setCauseIf_frame]) (by rw [setCauseIf_frame])
    (fun hr => by rw [setCauseIf_frame]; exact hr) (syncCuts_pendingLaw h)

theorem evaluateTable_pendingLaw {s : State} (h : PendingLaw s) : PendingLaw (evaluateTable s) := by
  unfold evaluateTable
  refine synced_pendingLaw _ _ ?_
  rw [recordLatches_frame]
  exact ⟨h.1, fun c hc => by simp at hc⟩

theorem releaseLatch_pendingLaw {s : State} (c : Chain) (h : PendingLaw s) : PendingLaw (releaseLatch c s) :=
  synced_pendingLaw (s := withEntries _ (putFault c _)) _ _ h

theorem leaveSlots_force (stamp : Stamp) (s : State) (c : Chain) :
    ((leaveSlots stamp s).slot.inForce.get c).force = .muted := by
  rw [(leaveSlots_slot stamp s).2.1, PerChain.get_fill]
  rfl

/-- The law after slots are left, whatever the governor does then. -/
theorem pendingLaw_of_leaveSlots {t : State} (stamp : Stamp) (s : State) (h : t.slot = (leaveSlots stamp s).slot) :
    PendingLaw t := by
  refine pendingLaw_of_left ?_ (fun c => ?_) ?_
  · rw [h, (leaveSlots_slot stamp s).1]
  · rw [h, leaveSlots_force]
  · rw [h]
    rfl

theorem requestStop_pendingLaw {s : State} (why : StopReason) (stamp : Stamp) (h : PendingLaw s) :
    PendingLaw (requestStop why stamp s) := by
  obtain he | he := requestStop_slot_cases why stamp s
  · rwa [he]
  · exact pendingLaw_of_leaveSlots _ _ he

theorem writeRun0_pendingLaw {s : State} (h : PendingLaw s) : PendingLaw (writeRun0 s) := by
  unfold writeRun0
  split
  · exact h
  · exact h
  · exact pendingLaw_of_leaveSlots s.thermal.steps s rfl
  · exact h
  · exact h

theorem enterStoppedIfQuiet_running {s : State} (h : s.governor.state = .running) :
    (enterStoppedIfQuiet s).governor.state = .running := by
  obtain ⟨hs, -, -⟩ | ⟨-, he⟩ := enterStoppedIfQuiet_cases s
  · rw [h] at hs
    cases hs
  · rwa [he]

theorem transferCompleted_running (ack : Bool) {s : State} (h : s.governor.state = .running) :
    (transferCompleted ack s).governor.state = .running := by
  unfold transferCompleted
  split
  · exact h
  · dsimp only
    rw [if_neg (by rw [h]; exact nofun)]
    exact h

theorem quietAfterBurst_running {s : State} (h : s.governor.state = .running) :
    (quietAfterBurst s).governor.state = .running := by
  rw [quietAfterBurst, if_neg (by rw [h]; exact nofun)]
  exact h

theorem scanCompleted_running (raw : Vector (BitVec 12) 11) {s : State} (h : s.governor.state = .running) :
    (scanCompleted raw s).governor.state = .running := by
  have count (u : State) (hu : u.governor.state = .running) : (countScan u).governor.state = .running := by
    rw [countScan, if_neg (by rw [hu]; exact nofun)]
    exact hu
  unfold scanCompleted
  split
  · exact count _ h
  · split
    · exact count _ h
    · exact h
  · exact h
  · exact h

theorem writeNcause_running (v : Half) {s : State} (h : s.governor.state = .running) :
    (writeNcause v s).governor.state = .running := by
  simp only [writeNcause, clearStop]
  rw [if_neg (c := (clearCauses _ s).governor.state = .stopped) (by simp [h])]
  split <;> exact h

theorem writeRun1_running {s : State} (h : s.governor.state = .running) :
    (writeRun1 s).governor.state = .running := by
  simp only [writeRun1, h]

theorem keptByEvents_pendingLaw : KeptByEvents (fun _ => True) PendingLaw where
  powerOn _ _ _ := pendingLaw_of_left rfl (fun c => by simp [powerOnReset, State.reset, slotAtReset, mutedByGovernor]) rfl
  warm _ s _ := by
    rw [warmReset_frame]
    exact pendingLaw_of_left rfl (fun c => by simp only [warmBlocks, PerChain.get_ofFn, warmInForce_force]) rfl
  pins _ _ h := h
  prepare _ _ _ _ hr := pendingLaw_of_running hr rfl
  activatePrepared _ p s _ hr _ := by
    refine pendingLaw_of_running (by rw [activatePrepared_frame]; exact hr) ?_
    unfold activatePrepared
    rw [writeOutcome_frame]
    rfl
  activateOrphan _ s _ hr _ := by
    refine pendingLaw_of_running (by rw [activateOrphan_frame]; exact hr) ?_
    unfold activateOrphan
    rw [writeOutcome_frame]
    rfl
  transfer ack s h := h.of_eq (by rw [transferCompleted_frame]) (by rw [transferCompleted_frame])
    (by rw [transferCompleted_frame]) (transferCompleted_running ack)
  estimator _ _ h := h
  watch _ _ h _ := h
  stop _ why stamp _ h := requestStop_pendingLaw why stamp h
  table _ _ h := evaluateTable_pendingLaw h
  scanDone _ raw s h := h.of_eq (by rw [scanCompleted_slot]) (by rw [scanCompleted_slot]) (by rw [scanCompleted_slot])
    (scanCompleted_running raw)
  setupSlots _ _ _ _ _ _ h _ _ _ _ := h
  setupChain _ _ _ _ h _ _ _ _ _ _ := h
  setupCondition _ _ _ _ _ _ _ s h _ := synced_pendingLaw (s := withEntries _ s) _ _ h
  setupSupply _ _ _ h _ := h
  setupChannel _ _ _ _ h _ _ _ _ _ := h
  loadTaken _ _ _ h := h
  drop _ _ _ h := h
  measuring _ _ _ h _ _ := h
  captureOn _ _ _ _ _ h _ _ _ _ _ := h
  captureOff _ _ h := h
  release _ c _ h _ _ := releaseLatch_pendingLaw c h
  discard _ _ _ h _ := h
  complete _ _ _ _ _ s h _ := by rw [completeEntry_frame]; exact h
  active _ _ _ h _ _ := h
  timer _ _ _ _ h _ _ := h
  measure _ _ _ _ h _ := h
  loadDone _ s h _ := by rw [finishLoad_frame]; exact h
  calibrate _ _ s h _ := by rw [applyCalibration_frame]; exact h
  settle _ _ h _ := h
  captureStep _ s h := by rw [captureStep_frame]; exact h
  burst b s h _ := h.of_eq (by rw [quietAfterBurst_frame, landBurst_frame])
    (by rw [quietAfterBurst_frame, landBurst_frame]) (by rw [quietAfterBurst_frame, landBurst_frame])
    fun hr => quietAfterBurst_running (by rw [landBurst_frame]; exact hr)
  stoppedIfQuiet s h := h.of_eq (by rw [enterStoppedIfQuiet_frame]) (by rw [enterStoppedIfQuiet_frame])
    (by rw [enterStoppedIfQuiet_frame]) enterStoppedIfQuiet_running
  host _ _ _ _ h := h
  reading _ _ _ h := h
  ncause v s h := h.of_eq (by rw [writeNcause_frame]) (by rw [writeNcause_frame]) (by rw [writeNcause_frame])
    (writeNcause_running v)
  nmask _ _ h := h
  run1 s h := h.of_eq (by rw [writeRun1_slot]) (by rw [writeRun1_slot]) (by rw [writeRun1_slot]) writeRun1_running
  run0 _ h := writeRun0_pendingLaw h
  post _ kind notify a s h := by rw [postAtCursor_frame]; exact h
  board _ h := h

/-! ### What the governor's law looks at -/

/-- The cause STOPPED by its bit. -/
theorem causeSet_stopped_iff (s : State) : causeSet .stopped s = true ↔ s.port.ncause &&& 32 ≠ 0 := by
  exact decide_eq_true_iff

theorem causeSet_stopped_congr {s t : State} (h : t.port.ncause &&& 32 = s.port.ncause &&& 32) :
    causeSet .stopped t = true ↔ causeSet .stopped s = true := by
  rw [causeSet_stopped_iff, causeSet_stopped_iff, h]

/-- No word waits for the link. -/
def NoneWaiting (d : DrivePort) : Prop :=
  ∀ c, (d.chains.get c).waiting = none

/-- The law where governor, link and burst are the same and the cause STOPPED stands or not as before. -/
theorem GovernorLaw.of_eq {s t : State} (hg : t.governor = s.governor) (hw : NoneWaiting s.drive → NoneWaiting t.drive)
    (ht : t.drive.transfer = s.drive.transfer) (hb : t.capture.burst = s.capture.burst)
    (hn : t.port.ncause &&& 32 = s.port.ncause &&& 32) (h : GovernorLaw s) : GovernorLaw t := by
  unfold GovernorLaw at *
  rw [hg, ht, hb, causeSet_stopped_congr hn]
  obtain ⟨h1, h2, h3, h4, h5, h6, h7⟩ := h
  exact ⟨h1, h2, h3, h4, fun hr => hw (h5 hr), h6, h7⟩

/-- The law in RUNNING does not look at the link or the burst. -/
theorem GovernorLaw.of_running {s t : State} (hr : s.governor.state = .running) (hg : t.governor = s.governor)
    (hn : t.port.ncause &&& 32 = s.port.ncause &&& 32) (h : GovernorLaw s) : GovernorLaw t := by
  obtain ⟨h1, -, h3, -⟩ := h
  unfold GovernorLaw
  rw [hg, causeSet_stopped_congr hn]
  simp only [hr] at *
  simp_all

/-- The law where the state is neither STOPPING nor left does not look at the burst. -/
theorem GovernorLaw.of_not_stopping {s t : State} (hs : s.governor.state ≠ .stopping) (hg : t.governor = s.governor)
    (hd : t.drive = s.drive) (hn : t.port.ncause &&& 32 = s.port.ncause &&& 32) (h : GovernorLaw s) :
    GovernorLaw t := by
  unfold GovernorLaw at *
  rw [hg, hd, causeSet_stopped_congr hn]
  obtain ⟨h1, h2, h3, -, h5, h6, h7⟩ := h
  exact ⟨h1, h2, h3, fun h => absurd h hs, h5, h6, h7⟩

/-! ### Entering STOPPED (R175) -/

/-- The part in STOPPING, the indications raised as what is in flight calls for, STOPPED not yet entered. -/
structure Quieting (s : State) : Prop where
  state : s.governor.state = .stopping
  run : s.governor.run = false
  cause : causeSet .stopped s = false
  quietSlot : s.governor.quietSlot = true
  quietDrive : s.governor.quietDrive = s.drive.transfer.isNone
  quietCapture : s.governor.quietCapture = s.capture.burst.isNone
  waiting : NoneWaiting s.drive

theorem GovernorLaw.quieting {s : State} (h : GovernorLaw s) (hs : s.governor.state = .stopping) : Quieting s := by
  obtain ⟨-, hrun, hcause, hquiet, hwait, -⟩ := h
  obtain ⟨hq, hd, hc, -⟩ := hquiet hs
  exact ⟨hs, hrun (.inr (.inl hs)), Bool.eq_false_iff.2 fun h => absurd (hs.symm.trans (hcause.1 h)) nofun, hq, hd, hc,
    hwait (by rw [hs]; exact nofun)⟩

theorem causeSet_setCause_stopped (s : State) : causeSet .stopped (setCause .stopped s) = true := by
  rw [causeSet_stopped_iff]
  have h : ∀ x : BitVec 6, (x ||| 32) &&& 32 ≠ 0 := by decide
  exact h _

/-- The third indication takes a part so described to STOPPED; with fewer it stays in STOPPING. -/
theorem Quieting.enterStopped {s : State} (h : Quieting s) : GovernorLaw (enterStoppedIfQuiet s) := by
  obtain ⟨hs, hrun, hcause, hq, hd, hc, hw⟩ := h
  obtain ⟨-, hall, he⟩ | ⟨hall, he⟩ := enterStoppedIfQuiet_cases s
  · simp only [allQuiet, Bool.and_eq_true] at hall
    have ht : s.drive.transfer = none := by simpa [hall.1.2] using hd.symm
    have hset := causeSet_setCause_stopped (mapGovernor (fun g => { g with state := .stopped }) s)
    rw [he]
    refine ⟨nofun, fun _ => hrun, ⟨fun _ => rfl, fun _ => hset⟩, nofun, fun _ => hw, fun _ => ht, nofun⟩
  · have hflight : s.drive.transfer.isSome ∨ s.capture.burst.isSome := by
      by_contra hn
      push Not at hn
      refine hall ⟨hs, ?_⟩
      simp only [Bool.not_eq_true, Option.isSome_eq_false_iff] at hn
      simp [allQuiet, hq, hd, hc, hn.1, hn.2]
    rw [he]
    unfold GovernorLaw
    simp only [hs]
    exact ⟨nofun, fun _ => hrun, by simp [hcause], fun _ => ⟨hq, hd, hc, hflight⟩, fun _ => hw, nofun, nofun⟩

/-! ### The link outside RUNNING (R146, R147) -/

/-- With no word waiting the arbiter does nothing. -/
theorem serveWaiting_of_noneWaiting {d : DrivePort} (h : NoneWaiting d) (cs : List Chain) : serveWaiting cs d = d := by
  induction cs with
  | nil => rfl
  | cons c cs ih => simp only [serveWaiting, h c, ih]

theorem arbitrate_of_noneWaiting {d : DrivePort} (h : NoneWaiting d) : arbitrate d = d := by
  unfold arbitrate
  split
  · rfl
  · exact serveWaiting_of_noneWaiting h _

/-- A record replaced by one with the same word waiting. -/
theorem NoneWaiting.set {d : DrivePort} (h : NoneWaiting d) (c : Chain) {r : DriveRecord} (hr : r.waiting = none)
    (t : Option Transfer) : NoneWaiting ⟨d.chains.set c r, t⟩ := by
  intro b
  simp only [PerChain.get_set]
  split
  · exact hr
  · exact h b

/-- With no word waiting a completion leaves none waiting, and either sends the word again or leaves the link idle. -/
theorem completeTransfer_of_noneWaiting {d : DrivePort} (h : NoneWaiting d) (ack stopping : Bool) {x : Transfer}
    (hx : d.transfer = some x) :
    NoneWaiting (completeTransfer ack stopping d) ∧
      ((completeTransfer ack stopping d).transfer = some { x with retry := true } ∨
        (completeTransfer ack stopping d).transfer = none) := by
  unfold completeTransfer
  rw [hx]
  dsimp only
  split
  · exact ⟨h, .inl rfl⟩
  · have hset (r : DriveRecord) (hr : r.waiting = (d.chains.get x.chain).waiting) :
        NoneWaiting ⟨d.chains.set x.chain r, none⟩ := h.set x.chain (hr.trans (h _)) none
    have hrec := hset _ (show (if ack = true then
      { d.chains.get x.chain with
        lastAck := some x.word, fate := if x.reports = true then .acknowledged else (d.chains.get x.chain).fate }
      else { d.chains.get x.chain with
        fate := if x.reports = true then .failed else (d.chains.get x.chain).fate }).waiting = _ by split <;> rfl)
    split
    · exact ⟨hrec, .inr rfl⟩
    · rw [arbitrate_of_noneWaiting hrec]
      exact ⟨hrec, .inr rfl⟩

theorem transferCompleted_governorLaw {s : State} (ack : Bool) (h : GovernorLaw s) :
    GovernorLaw (transferCompleted ack s) := by
  unfold transferCompleted
  cases hx : s.drive.transfer with
  | none => exact h
  | some x =>
    rw [if_neg nofun]
    dsimp only
    by_cases hs : s.governor.state = .stopping
    · rw [if_pos hs, decide_eq_true hs]
      obtain ⟨-, hrun, hcause, hq, -, hc, hw⟩ := h.quieting hs
      have ht := completeTransfer_stopping ack s.drive
      exact Quieting.enterStopped ⟨hs, hrun, hcause, hq, by rw [mapGovernor_drive, ht]; rfl, hc,
        (completeTransfer_of_noneWaiting hw ack true hx).1⟩
    · rw [if_neg hs]
      by_cases hr : s.governor.state = .running
      · exact GovernorLaw.of_running (s := s) hr rfl rfl h
      · obtain ⟨h1, h2, h3, h4, h5, h6, h7⟩ := h
        obtain ⟨hw, ht⟩ := completeTransfer_of_noneWaiting (h5 hr) ack (decide (s.governor.state = .stopping)) hx
        have hidle : ¬(s.governor.state = .init ∨ s.governor.state = .stopped) := fun hi => by
          rw [h6 hi] at hx
          cases hx
        refine ⟨h1, h2, h3, fun hst => absurd hst hs, fun _ => hw, fun hi => absurd hi hidle, fun hi y hy => ?_⟩
        obtain ht | ht := ht
        · rw [ht] at hy
          rw [← Option.some.inj hy]
          exact h7 hi x hx
        · rw [ht] at hy
          cases hy

/-- Every word that waited is discarded. -/
theorem discardWaiting_noneWaiting (s : State) : NoneWaiting (discardWaiting s).drive := by
  intro c
  simp [discardWaiting]

theorem NoneWaiting.assertMutes {s : State} (h : NoneWaiting s.drive) : NoneWaiting (assertMutes s).drive := by
  intro c
  simp only [Machine.assertMutes, mapDrive_drive, PerChain.get_mapIdx]
  exact h c

theorem enterStopping_quieting {s : State} (why : StopReason) (stamp : Stamp) (hc : causeSet .stopped s = false) :
    Quieting (enterStopping why stamp s) := by
  have hg := enterStopping_governor why stamp s
  have hn : (enterStopping why stamp s).port.ncause &&& 32 = s.port.ncause &&& 32 :=
    leaveSlots_stopped stamp (beginStopping why s)
  refine ⟨by rw [hg], by rw [hg], ?_, by rw [hg], ?_, ?_, ?_⟩
  · rw [Bool.eq_false_iff, ne_eq, causeSet_stopped_congr hn, hc]
    exact Bool.false_ne_true
  · rw [hg, enterStopping_transfer]
  · rw [hg, enterStopping_capture]
  · exact NoneWaiting.assertMutes (discardWaiting_noneWaiting _)

theorem requestStop_governorLaw {s : State} (why : StopReason) (stamp : Stamp) (h : GovernorLaw s) :
    GovernorLaw (requestStop why stamp s) := by
  unfold requestStop
  split
  · next hs =>
    refine (enterStopping_quieting why stamp (Bool.eq_false_iff.2 fun hc => ?_)).enterStopped
    rw [h.2.2.1.1 hc] at hs
    simp at hs
  · exact h

theorem evaluateTable_ncause_stopped (s : State) :
    (evaluateTable s).port.ncause &&& 32 = s.port.ncause &&& 32 := by
  unfold evaluateTable
  dsimp only
  rw [setCauseIf_stopped _ .cond (by decide), syncCuts_frame, recordLatches_frame]
  rfl

theorem syncCuts_waiting {s : State} (h : NoneWaiting s.drive) : NoneWaiting (syncCuts s).drive := by
  intro c
  rw [syncCuts_drive]
  simp only [PerChain.get_mapIdx]
  exact h c

theorem syncCuts_transfer (s : State) : (syncCuts s).drive.transfer = s.drive.transfer := by
  rw [syncCuts_drive]

theorem synced_governorLaw {s : State} (b : Bool) (k : Cause) (hk : k ≠ .stopped) (h : GovernorLaw s) :
    GovernorLaw (setCauseIf b k (syncCuts s)) := by
  have hd : (setCauseIf b k (syncCuts s)).drive = (syncCuts s).drive := by rw [setCauseIf_frame]
  have hc : (setCauseIf b k (syncCuts s)).capture = s.capture := by rw [setCauseIf_frame, syncCuts_frame]
  have hp : (syncCuts s).port = s.port := by rw [syncCuts_frame]
  refine GovernorLaw.of_eq (s := s) (synced_governor b k s) (fun hw => ?_) ?_ ?_ ?_ h
  · rw [hd]
    exact syncCuts_waiting hw
  · rw [hd, syncCuts_transfer]
  · rw [hc]
  · rw [setCauseIf_stopped b k hk, hp]

theorem evaluateTable_governorLaw {s : State} (h : GovernorLaw s) : GovernorLaw (evaluateTable s) := by
  unfold evaluateTable
  refine synced_governorLaw _ _ (by decide) ?_
  rw [recordLatches_frame]
  exact h

theorem releaseLatch_governorLaw {s : State} (c : Chain) (h : GovernorLaw s) : GovernorLaw (releaseLatch c s) :=
  synced_governorLaw (s := withEntries _ (putFault c _)) _ _ (by decide) h

theorem leaveInit_governorLaw {s : State} (hs : s.governor.state = .init) (h : GovernorLaw s) :
    GovernorLaw (leaveInit s) := by
  obtain ⟨-, -, h3, -, h5, h6, -⟩ := h
  have hn : (setCause .ready (mapGovernor (fun g => { g with state := .idle }) s)).port.ncause &&& 32 =
      s.port.ncause &&& 32 := mask_other .ready (by decide) _
  have hc : ¬causeSet .stopped s = true := fun hc => by rw [h3.1 hc] at hs; cases hs
  have ht := h6 (.inl hs)
  have hw := h5 (by rw [hs]; exact nofun)
  unfold leaveInit
  dsimp only
  split
  · next hrun =>
    refine ⟨fun _ => hrun, nofun, ?_, nofun, fun hr => absurd rfl hr, nofun, nofun⟩
    exact (causeSet_stopped_congr (s := s) hn).trans ⟨fun h => absurd h hc, nofun⟩
  · next hrun =>
    refine ⟨nofun, fun _ => Bool.eq_false_of_not_eq_true hrun, ?_, nofun, fun _ => hw, nofun, fun _ x hx => ?_⟩
    · exact (causeSet_stopped_congr (s := s) hn).trans ⟨fun h => absurd h hc, nofun⟩
    · exact absurd (ht.symm.trans hx) nofun

/-- A law of INIT does not look at the count of scans. -/
theorem countScan_governorLaw {s : State} (h : GovernorLaw s) : GovernorLaw (countScan s) := by
  unfold countScan
  split
  · next hs =>
    dsimp only
    split
    · exact leaveInit_governorLaw (s := mapGovernor _ s) hs h
    · exact h
  · exact h

theorem scanCompleted_governorLaw {s : State} (raw : Vector (BitVec 12) 11) (h : GovernorLaw s) :
    GovernorLaw (scanCompleted raw s) := by
  unfold scanCompleted
  split
  · exact countScan_governorLaw (s := mapSensors _ s) h
  · split
    · exact countScan_governorLaw (s := mapSensors _ (mapSensors _ s)) h
    · exact h
  · exact h
  · exact h

/-- A capture step event prepares no burst in STOPPING. -/
theorem captureStep_burst_stopping (atStart : Bool) {s : State} (hs : s.governor.state = .stopping) :
    (captureStep atStart s).capture.burst = s.capture.burst := by
  simp only [captureStep]
  rw [if_neg (by simp [hs])]
  rfl

theorem captureStep_governorLaw {s : State} (atStart : Bool) (h : GovernorLaw s) :
    GovernorLaw (captureStep atStart s) := by
  by_cases hs : s.governor.state = .stopping
  · refine h.of_eq (by rw [captureStep_frame]) (fun hw => by rw [captureStep_frame]; exact hw)
      (by rw [captureStep_frame]) (captureStep_burst_stopping atStart hs) (by rw [captureStep_frame])
  · exact h.of_not_stopping hs (by rw [captureStep_frame]) (by rw [captureStep_frame]) (by rw [captureStep_frame])

theorem landBurst_burst (b : List CaptureRecord) (s : State) : (landBurst b s).capture.burst = none := by
  simp only [landBurst]
  rw [testThreshold_frame]
  rfl

theorem landBurst_stopped (b : List CaptureRecord) (s : State) :
    (landBurst b s).port.ncause &&& 32 = s.port.ncause &&& 32 := by
  have hp (rs : List CaptureRecord) (u : State) : (putRecords rs u).port = u.port := by rw [putRecords_frame]
  simp only [landBurst, testThreshold, mapCapture_port]
  rw [setCauseIf_stopped _ .capture (by decide)]
  simp only [putCaptureMirror, partWrite_port, mapCapture_port, hp]

theorem burst_governorLaw {s : State} (b : List CaptureRecord) (h : GovernorLaw s) :
    GovernorLaw (quietAfterBurst (landBurst b s)) := by
  have hg : (landBurst b s).governor = s.governor := by rw [landBurst_frame]
  have hd : (landBurst b s).drive = s.drive := by rw [landBurst_frame]
  have hn := landBurst_stopped b s
  have hb := landBurst_burst b s
  generalize landBurst b s = u at hg hd hn hb ⊢
  unfold quietAfterBurst
  split
  · next hs =>
    rw [hg] at hs
    obtain ⟨-, hrun, hcause, hq, hqd, -, hw⟩ := h.quieting hs
    have hcu : causeSet .stopped u = false := by
      rw [Bool.eq_false_iff, ne_eq, causeSet_stopped_congr hn, hcause]
      exact Bool.false_ne_true
    refine Quieting.enterStopped ⟨by rw [← hs, ← hg]; rfl, by rw [← hrun, ← hg]; rfl, hcu, by rw [← hq, ← hg]; rfl,
      ?_, ?_, ?_⟩
    · show u.governor.quietDrive = u.drive.transfer.isNone
      rw [hg, hd, hqd]
    · show true = u.capture.burst.isNone
      rw [hb]
      rfl
    · show NoneWaiting u.drive
      rwa [hd]
  · next hs =>
    rw [hg] at hs
    exact h.of_not_stopping hs hg hd hn

/-! ### Register writes -/

/-- Clearing causes leaves the bit of STOPPED, or clears it where its bit is written 1. -/
theorem clearCauses_stopped (v : Half) (s : State) :
    (clearCauses (v.setWidth 6) s).port.ncause &&& 32 =
      if v.getLsbD 5 then 0 else s.port.ncause &&& 32 := by
  have h : ∀ x w : BitVec 6, x &&& ~~~w &&& 32 = if w.getLsbD 5 then 0 else x &&& 32 := by decide
  have hv : (v.setWidth 6).getLsbD 5 = v.getLsbD 5 := by simp
  rw [← hv]
  exact h _ _

theorem writeNcause_governorLaw {s : State} (v : Half) (h : GovernorLaw s) : GovernorLaw (writeNcause v s) := by
  have hn := clearCauses_stopped v s
  simp only [writeNcause, clearStop]
  split
  · next hv =>
    rw [if_pos hv] at hn
    have hc : ¬causeSet .stopped (clearCauses (v.setWidth 6) s) = true := by
      rw [causeSet_stopped_iff, hn]
      simp
    obtain ⟨h1, h2, h3, h4, h5, h6, h7⟩ := h
    split
    · next hs =>
      have ht : s.drive.transfer = none := h6 (.inr hs)
      refine ⟨nofun, fun _ => rfl, ⟨fun hset => absurd hset hc, nofun⟩, nofun,
        fun _ => h5 (fun hr => absurd (hs.symm.trans hr) nofun), nofun, fun _ x hx => absurd (ht.symm.trans hx) nofun⟩
    · next hs => exact ⟨h1, h2, ⟨fun hset => absurd hset hc, fun hst => absurd hst hs⟩, h4, h5, h6, h7⟩
  · next hv =>
    rw [if_neg hv] at hn
    exact GovernorLaw.of_eq (s := s) rfl id rfl rfl hn h

theorem writeRun1_governorLaw {s : State} (h : GovernorLaw s) : GovernorLaw (writeRun1 s) := by
  obtain ⟨h1, h2, h3, h4, h5, h6, h7⟩ := h
  unfold writeRun1
  split
  · next hs =>
    exact ⟨fun _ => rfl, fun hst => by
      rw [mapGovernor_governor] at hst
      rw [hs] at hst
      simp at hst, h3, h4, h5, h6, h7⟩
  · next hs =>
    refine ⟨fun _ => rfl, nofun, ⟨fun hc => ?_, nofun⟩, nofun, fun hr => absurd rfl hr, nofun, nofun⟩
    have := h3.1 hc
    rw [hs] at this
    cases this
  all_goals exact ⟨h1, h2, h3, h4, h5, h6, h7⟩

/-- A word in transfer that RUN 0 leaves running moves no current result. -/
theorem keepResults_transfer (s : State) {x : Transfer} (h : (keepResults s).drive.transfer = some x) :
    x.reports = false := by
  simp only [keepResults] at h
  obtain ⟨y, -, rfl⟩ := Option.map_eq_some_iff.1 h
  rfl

theorem leaveRunning_governorLaw {s : State} (hc : causeSet .stopped s = false) : GovernorLaw (leaveRunning s) := by
  have hn : (leaveRunning s).port.ncause &&& 32 = s.port.ncause &&& 32 := leaveSlots_stopped s.thermal.steps s
  refine ⟨nofun, fun _ => rfl, ⟨fun hset => ?_, nofun⟩, nofun, fun _ => ?_, nofun, fun _ x hx => ?_⟩
  · rw [causeSet_stopped_congr hn, hc] at hset
    cases hset
  · exact NoneWaiting.assertMutes (s := keepResults (discardWaiting _)) (discardWaiting_noneWaiting _)
  · exact keepResults_transfer _ hx

theorem writeRun0_governorLaw {s : State} (h : GovernorLaw s) : GovernorLaw (writeRun0 s) := by
  unfold writeRun0
  split
  · next hs =>
    obtain ⟨-, h2, h3, h4, h5, h6, h7⟩ := h
    exact ⟨fun hr => absurd (hs.symm.trans hr) nofun, fun _ => rfl, h3, h4, h5, h6, h7⟩
  · exact h
  · next hs =>
    refine leaveRunning_governorLaw (Bool.eq_false_iff.2 fun hc => ?_)
    have := h.2.2.1.1 hc
    rw [hs] at this
    cases this
  · exact h
  · exact h

theorem activation_stopped (o : SlotOutcome) (s : State) :
    (settleMutes (advanceSlot (writeOutcome o s))).port.ncause &&& 32 = s.port.ncause &&& 32 :=
  writeOutcome_stopped o s

theorem completeEntry_stopped (state : Byte) (why : ResultCode) (data : List Byte) (notify : Bool) (s : State) :
    (completeEntry state why data notify s).port.ncause &&& 32 = s.port.ncause &&& 32 :=
  setCauseIf_stopped notify .directive (by decide) (putEntry s.directives.cursor state why data s)

/-- The law right after either reset. -/
theorem governorLaw_of_reset {s : State} (hg : s.governor = governorAtReset) (hn : s.port.ncause = 0)
    (hd : s.drive = ⟨.fill driveAtReset, none⟩) : GovernorLaw s := by
  have hc : ¬causeSet .stopped s = true := by simp [causeSet_stopped_iff, hn]
  unfold GovernorLaw
  rw [hg, hd]
  exact ⟨nofun, fun _ => rfl, ⟨fun h => absurd h hc, nofun⟩, nofun,
    fun _ c => by simp [driveAtReset], fun _ => rfl, nofun⟩

theorem keptByEvents_governorLaw : KeptByEvents (fun _ => True) GovernorLaw where
  powerOn _ _ _ := governorLaw_of_reset rfl rfl rfl
  warm _ s _ := governorLaw_of_reset (by rw [warmReset_frame]; rfl) (by rw [warmReset_frame]; rfl)
    (by rw [warmReset_frame]; rfl)
  pins _ _ h := h
  prepare _ _ s h hr := GovernorLaw.of_running (s := s) hr rfl rfl h
  activatePrepared _ p s h hr _ := h.of_running hr (by rw [activatePrepared_frame]) (activation_stopped _ _)
  activateOrphan _ s h hr _ := h.of_running hr (by rw [activateOrphan_frame]) (activation_stopped _ _)
  transfer ack _ h := transferCompleted_governorLaw ack h
  estimator _ _ h := h
  watch _ _ h _ := h
  stop _ why stamp _ h := requestStop_governorLaw why stamp h
  table _ _ h := evaluateTable_governorLaw h
  scanDone _ raw _ h := scanCompleted_governorLaw raw h
  setupSlots _ _ _ _ _ _ h _ _ _ _ := h
  setupChain _ _ _ _ h _ _ _ _ _ _ := h
  setupCondition _ _ _ _ _ _ _ s h _ := synced_governorLaw (s := withEntries _ s) _ _ (by decide) h
  setupSupply _ _ _ h _ := h
  setupChannel _ _ _ _ h _ _ _ _ _ := h
  loadTaken _ _ _ h := h
  drop _ _ _ h := h
  measuring _ _ _ h _ _ := h
  captureOn _ _ _ _ _ h _ _ _ _ _ := h
  captureOff _ _ h := h
  release _ c _ h _ _ := releaseLatch_governorLaw c h
  discard _ _ _ h _ := h
  complete _ _ _ _ _ s h _ := h.of_eq (by rw [completeEntry_frame]) (fun hw => by rw [completeEntry_frame]; exact hw)
    (by rw [completeEntry_frame]) (by rw [completeEntry_frame]) (completeEntry_stopped _ _ _ _ s)
  active _ _ _ h _ _ := h
  timer _ _ _ _ h _ _ := h
  measure _ _ _ _ h _ := h
  loadDone _ s h _ := by rw [finishLoad_frame]; exact h
  calibrate _ _ s h _ := by rw [applyCalibration_frame]; exact h
  settle _ _ h _ := h
  captureStep atStart _ h := captureStep_governorLaw atStart h
  burst b _ h _ := burst_governorLaw b h
  stoppedIfQuiet s h := by
    by_cases hs : s.governor.state = .stopping
    · exact (h.quieting hs).enterStopped
    · rwa [enterStoppedIfQuiet, if_neg fun hq => hs hq.1]
  host _ _ _ _ h := h
  reading _ _ _ h := h
  ncause v _ h := writeNcause_governorLaw v h
  nmask _ _ h := h
  run1 _ h := writeRun1_governorLaw h
  run0 _ h := writeRun0_governorLaw h
  post _ kind notify a s h := by rw [postAtCursor_frame]; exact h
  board _ h := h

/-- Settles O26: two inductions over the part's events. -/
theorem everyStepKeepsTheGovernorLaw : Obligations.EveryStepKeepsTheGovernorLaw :=
  ⟨keptByEvents_governorLaw.step (fun _ => trivial) fun _ _ h => h,
    keptByEvents_pendingLaw.step (fun _ => trivial) fun _ _ h => h⟩

end Sys2Proof.Machine
end

section
/-! The MUTE lines (R144, R145): every event keeps a line asserted while a reason stands, and none but an activation
releases one. -/

namespace Sys2Proof.Machine

/-! ### The reasons of R144 -/

theorem preparedMuted_iff (s : State) (c : Chain) :
    preparedMuted s c = true ↔ ∃ p, s.slot.prepared = some p ∧ (p.chains.get c).verdict.state = .muted := by
  unfold preparedMuted
  split
  · next hp => simp [hp]
  · next p hp => simp [hp]

theorem muteReason_iff (s : State) (c : Chain) :
    muteReason s c = true ↔ s.governor.state ≠ .running ∨ s.supervisor.cutRequest.get c = true ∨
      (s.drive.chains.get c).cut = true ∨ (s.slot.inForce.get c).force.state = .muted ∨
      ∃ p, s.slot.prepared = some p ∧ (p.chains.get c).verdict.state = .muted := by
  simp only [muteReason, Bool.or_eq_true, decide_eq_true_iff, preparedMuted_iff, or_assoc]

theorem muteLaw_iff (s : State) :
    MuteLaw s ↔ ∀ c, muteReason s c = true → (s.drive.chains.get c).mute = true := by
  simp only [MuteLaw, muteReason_iff]

theorem assertMutes_mute (s : State) (c : Chain) :
    ((assertMutes s).drive.chains.get c).mute = ((s.drive.chains.get c).mute || muteReason s c) := by
  simp [assertMutes]

theorem settleMutes_mute (s : State) (c : Chain) :
    ((settleMutes s).drive.chains.get c).mute = muteReason s c := by
  simp [settleMutes]

theorem muteReason_assertMutes (s : State) (c : Chain) : muteReason (assertMutes s) c = muteReason s c :=
  muteReason_mapDrive s (fun c r => { r with mute := r.mute || muteReason s c }) (fun _ _ => rfl) c

theorem muteReason_settleMutes (s : State) (c : Chain) : muteReason (settleMutes s) c = muteReason s c :=
  muteReason_mapDrive s (fun c r => { r with mute := muteReason s c }) (fun _ _ => rfl) c

theorem settleMutes_muteLaw (s : State) : MuteLaw (settleMutes s) :=
  (muteLaw_iff _).2 fun c hc => by rwa [settleMutes_mute, ← muteReason_settleMutes]

/-! ### Events that release no line -/

/-- No line is released, and the line of a chain with a new reason is asserted. -/
structure LinesKept (s t : State) : Prop where
  lines : ∀ c, (s.drive.chains.get c).mute = true → (t.drive.chains.get c).mute = true
  reasons : ∀ c, muteReason t c = true → muteReason s c = true ∨ (t.drive.chains.get c).mute = true

theorem LinesKept.trans {s t u : State} (h : LinesKept s t) (k : LinesKept t u) : LinesKept s u where
  lines c hc := k.lines c (h.lines c hc)
  reasons c hc := (k.reasons c hc).elim (fun ht => (h.reasons c ht).imp_right (k.lines c)) .inr

theorem LinesKept.muteLaw {s t : State} (h : LinesKept s t) (hs : MuteLaw s) : MuteLaw t :=
  (muteLaw_iff t).2 fun c hc => (h.reasons c hc).elim (fun hr => h.lines c ((muteLaw_iff s).1 hs c hr)) id

theorem linesKept_of_asserted {s t : State} (h : ∀ c, (t.drive.chains.get c).mute = true) : LinesKept s t :=
  ⟨fun c _ => h c, fun c _ => .inr (h c)⟩

/-- Cut flags, cut requests and slots as before, and RUNNING not left: the reasons are among those before. -/
theorem linesKept_of_eq {s t : State}
    (hd : ∀ c, (t.drive.chains.get c).cut = (s.drive.chains.get c).cut ∧
      (t.drive.chains.get c).mute = (s.drive.chains.get c).mute)
    (hcut : t.supervisor.cutRequest = s.supervisor.cutRequest) (hf : t.slot.inForce = s.slot.inForce)
    (hp : t.slot.prepared = s.slot.prepared) (hr : s.governor.state = .running → t.governor.state = .running) :
    LinesKept s t where
  lines c hc := by rw [(hd c).2, hc]
  reasons c hc := by
    rw [muteReason_iff, (hd c).1, hcut, hf, hp] at hc
    exact .inl ((muteReason_iff s c).2 (hc.imp_left fun hn hs => hn (hr hs)))

theorem linesKept_of_drive_eq {s t : State} (hd : t.drive = s.drive)
    (hcut : t.supervisor.cutRequest = s.supervisor.cutRequest) (hs : t.slot = s.slot)
    (hr : s.governor.state = .running → t.governor.state = .running) : LinesKept s t :=
  linesKept_of_eq (fun c => by rw [hd]; exact ⟨rfl, rfl⟩) hcut (by rw [hs]) (by rw [hs]) hr

/-- Whatever else an event does, if it asserts the lines whose reasons it began it releases none. -/
theorem linesKept_assertMutes {s t : State}
    (h : ∀ c, (s.drive.chains.get c).mute = true → (t.drive.chains.get c).mute = true) :
    LinesKept s (assertMutes t) where
  lines c hc := by rw [assertMutes_mute, h c hc, Bool.true_or]
  reasons c hc := by
    rw [muteReason_assertMutes] at hc
    rw [assertMutes_mute, hc, Bool.or_true]
    exact .inr rfl

theorem syncCuts_linesKept (s : State) : LinesKept s (syncCuts s) := by
  refine linesKept_assertMutes fun c hc => ?_
  have h (t : State) (d : Chain) : (syncCut t d).drive = t.drive := by rw [syncCut_frame]
  rwa [h, h, h, h]

theorem setCauseIf_linesKept (b : Bool) (k : Cause) (s : State) : LinesKept s (setCauseIf b k s) :=
  linesKept_of_drive_eq (by rw [setCauseIf_frame]) (by rw [setCauseIf_frame]) (by rw [setCauseIf_frame])
    (fun hr => by rw [setCauseIf_frame]; exact hr)

theorem recordLatches_linesKept (before s : State) : LinesKept s (recordLatches before s) :=
  linesKept_of_drive_eq (by rw [recordLatches_frame]) (recordLatches_cutRequest _ _) (by rw [recordLatches_frame])
    (fun hr => by rw [recordLatches_frame]; exact hr)

theorem forgetCuts_linesKept (s : State) (es : Vector CondEntry 19) : LinesKept s (withEntries es (forgetCuts s)) :=
  linesKept_of_eq (fun _ => ⟨rfl, rfl⟩) rfl rfl rfl id

theorem evaluateTable_linesKept (s : State) : LinesKept s (evaluateTable s) := by
  have h : LinesKept s (withEntries (evaluatedEntries s) (forgetCuts s)) :=
    forgetCuts_linesKept s _
  unfold evaluateTable
  exact ((h.trans (recordLatches_linesKept _ _)).trans (syncCuts_linesKept _)).trans (setCauseIf_linesKept _ _ _)

theorem replaceEntry_linesKept (i : Fin 19) (e : CondEntry) (s : State) : LinesKept s (replaceEntry i e s) := by
  have h : LinesKept s (withEntries (s.supervisor.entries.set i.val e i.isLt) s) :=
    linesKept_of_drive_eq rfl rfl rfl id
  exact (h.trans (syncCuts_linesKept _)).trans (setCauseIf_linesKept _ _ _)

theorem releaseLatch_linesKept (c : Chain) (s : State) : LinesKept s (releaseLatch c s) := by
  let r : State := { s with supervisor := { s.supervisor with
    faults := s.supervisor.faults.set c { s.supervisor.faults.get c with released := true } } }
  have h : LinesKept s (putFault c r) := linesKept_of_drive_eq rfl rfl rfl id
  exact h.trans (replaceEntry_linesKept (chainEntry c 2) _ (putFault c r))

theorem enterStoppedIfQuiet_linesKept (s : State) : LinesKept s (enterStoppedIfQuiet s) :=
  linesKept_of_drive_eq (by rw [enterStoppedIfQuiet_frame]) (by rw [enterStoppedIfQuiet_frame])
    (by rw [enterStoppedIfQuiet_frame]) enterStoppedIfQuiet_running

theorem discardWaiting_mute (s : State) (c : Chain) :
    ((discardWaiting s).drive.chains.get c).mute = (s.drive.chains.get c).mute := by
  simp [discardWaiting]

theorem requestStop_linesKept (why : StopReason) (stamp : Stamp) (s : State) :
    LinesKept s (requestStop why stamp s) := by
  unfold requestStop
  split
  · refine LinesKept.trans (t := enterStopping why stamp s) ?_ (enterStoppedIfQuiet_linesKept _)
    refine LinesKept.trans (t := assertMutes (discardWaiting (leaveSlots stamp (beginStopping why s)))) ?_ ?_
    · refine linesKept_assertMutes fun c hc => ?_
      rw [discardWaiting_mute, leaveSlots_frame]
      exact hc
    · exact linesKept_of_drive_eq rfl rfl rfl fun h => h
  · exact linesKept_of_drive_eq rfl rfl rfl fun h => h

theorem writeRun0_linesKept (s : State) : LinesKept s (writeRun0 s) := by
  unfold writeRun0
  split
  · exact linesKept_of_drive_eq rfl rfl rfl fun h => h
  · exact linesKept_of_drive_eq rfl rfl rfl fun h => h
  · refine linesKept_assertMutes fun c hc => ?_
    show ((discardWaiting _).drive.chains.get c).mute = true
    rw [discardWaiting_mute, mapGovernor_drive, leaveSlots_frame]
    exact hc
  · exact linesKept_of_drive_eq rfl rfl rfl fun h => h
  · exact linesKept_of_drive_eq rfl rfl rfl fun h => h

/-- Handing over words leaves the lines alone. -/
theorem handOver_lines (words : PerChain DriveWord) (d : DrivePort) (c : Chain) :
    ((handOver words d).chains.get c).cut = (d.chains.get c).cut ∧
      ((handOver words d).chains.get c).mute = (d.chains.get c).mute := by
  have place (w : DriveWord) (busy : Bool) (r : DriveRecord) :
      (placeWord w busy r).cut = r.cut ∧ (placeWord w busy r).mute = r.mute := by
    unfold placeWord
    split <;> exact ⟨rfl, rfl⟩
  unfold handOver
  obtain ⟨hcut, hmute⟩ := arbitrate_lines
    ⟨d.chains.mapIdx fun c r => placeWord (words.get c) (inTransfer d c) r,
      d.transfer.map fun t => { t with reports := false }⟩ c
  rw [hcut, hmute, PerChain.get_mapIdx]
  exact place _ _ _

theorem prepare_linesKept (atTrip : Bool) (s : State) : LinesKept s (prepare atTrip s) :=
  linesKept_assertMutes fun c hc => by
    show ((handOver _ s.drive).chains.get c).mute = true
    rw [(handOver_lines _ _ c).2, hc]

theorem transferCompleted_lines (ack : Bool) (s : State) (c : Chain) :
    ((transferCompleted ack s).drive.chains.get c).cut = (s.drive.chains.get c).cut ∧
      ((transferCompleted ack s).drive.chains.get c).mute = (s.drive.chains.get c).mute := by
  unfold transferCompleted
  split
  · exact ⟨rfl, rfl⟩
  · dsimp only
    split
    · rw [enterStoppedIfQuiet_frame]
      exact completeTransfer_lines ack _ s.drive c
    · exact completeTransfer_lines ack _ s.drive c

theorem transferCompleted_linesKept (ack : Bool) (s : State) : LinesKept s (transferCompleted ack s) :=
  linesKept_of_eq (transferCompleted_lines ack s) (by rw [transferCompleted_frame]) (by rw [transferCompleted_frame])
    (by rw [transferCompleted_frame]) (transferCompleted_running ack)

theorem scanCompleted_linesKept (raw : Vector (BitVec 12) 11) (s : State) : LinesKept s (scanCompleted raw s) :=
  linesKept_of_eq (fun c => by rw [scanCompleted_frame]; exact ⟨rfl, rfl⟩) (by rw [scanCompleted_frame])
    (by rw [scanCompleted_slot]) (by rw [scanCompleted_slot]) (scanCompleted_running raw)

theorem burst_linesKept (b : List CaptureRecord) (s : State) : LinesKept s (quietAfterBurst (landBurst b s)) :=
  linesKept_of_drive_eq (by rw [quietAfterBurst_frame, landBurst_frame]) (by rw [quietAfterBurst_frame, landBurst_frame])
    (by rw [quietAfterBurst_frame, landBurst_frame])
    fun hr => quietAfterBurst_running (by rw [landBurst_frame]; exact hr)

/-- A property that every event which releases no line keeps is kept by every event but, where it may occur, an
activation. -/
theorem keptByEvents_of_lines {ok : EventSort → Prop} {inv : State → Prop}
    (hk : ∀ {s t}, inv s → LinesKept s t → inv t) (ha : ok .activate → ∀ s, inv (settleMutes s)) :
    KeptByEvents ok inv where
  powerOn _ _ h := hk h (linesKept_of_asserted fun c => by simp [powerOnReset, State.reset, driveAtReset])
  warm _ s h := hk h (linesKept_of_asserted fun c => by
    rw [warmReset_frame]
    simp [warmBlocks, driveAtReset])
  pins _ _ h := hk h (linesKept_of_drive_eq rfl rfl rfl id)
  prepare _ atTrip s h _ := hk h (prepare_linesKept atTrip s)
  activatePrepared h _ _ _ _ _ := ha h _
  activateOrphan h _ _ _ _ := ha h _
  transfer ack s h := hk h (transferCompleted_linesKept ack s)
  estimator _ _ h := hk h (linesKept_of_drive_eq rfl rfl rfl id)
  watch _ s h _ := hk h (linesKept_of_eq (fun _ => ⟨rfl, rfl⟩) rfl rfl rfl id)
  stop _ why stamp s h := hk h (requestStop_linesKept why stamp s)
  table _ s h := hk h (evaluateTable_linesKept s)
  scanDone _ raw s h := hk h (scanCompleted_linesKept raw s)
  setupSlots _ n code m w s h _ _ _ _ := hk h (linesKept_of_eq (fun _ => ⟨rfl, rfl⟩) rfl rfl rfl id)
  setupChain _ _ _ _ h _ _ _ _ _ _ := hk h (linesKept_of_drive_eq rfl rfl rfl id)
  setupCondition _ _ _ _ _ _ _ s h _ := hk h (replaceEntry_linesKept _ _ s)
  setupSupply _ _ _ h _ := hk h (linesKept_of_drive_eq rfl rfl rfl id)
  setupChannel _ _ _ _ h _ _ _ _ _ := hk h (linesKept_of_drive_eq rfl rfl rfl id)
  loadTaken _ _ _ h := hk h (linesKept_of_drive_eq rfl rfl rfl id)
  drop _ _ _ h := hk h (linesKept_of_drive_eq rfl rfl rfl id)
  measuring _ _ _ h _ _ := hk h (linesKept_of_drive_eq rfl rfl rfl id)
  captureOn _ _ _ _ _ h _ _ _ _ _ := hk h (linesKept_of_drive_eq rfl rfl rfl id)
  captureOff _ _ h := hk h (linesKept_of_drive_eq rfl rfl rfl id)
  release _ c s h _ _ := hk h (releaseLatch_linesKept c s)
  discard _ _ _ h _ := hk h (linesKept_of_drive_eq rfl rfl rfl id)
  complete _ _ _ _ _ s h _ := hk h (linesKept_of_drive_eq (by rw [completeEntry_frame]) (by rw [completeEntry_frame])
    (by rw [completeEntry_frame]) fun _ => by rwa [completeEntry_frame])
  active _ _ _ h _ _ := hk h (linesKept_of_drive_eq rfl rfl rfl id)
  timer _ _ _ _ h _ _ := hk h (linesKept_of_drive_eq rfl rfl rfl id)
  measure _ _ _ _ h _ := hk h (linesKept_of_drive_eq rfl rfl rfl id)
  loadDone _ s h _ := by
    rw [finishLoad_frame]
    exact hk h (linesKept_of_drive_eq rfl rfl rfl id)
  calibrate _ _ s h _ := by
    rw [applyCalibration_frame]
    exact hk h (linesKept_of_drive_eq rfl rfl rfl id)
  settle _ _ h _ := hk h (linesKept_of_drive_eq rfl rfl rfl id)
  captureStep _ s h := by
    rw [captureStep_frame]
    exact hk h (linesKept_of_drive_eq rfl rfl rfl id)
  burst b s h _ := hk h (burst_linesKept b s)
  stoppedIfQuiet s h := hk h (enterStoppedIfQuiet_linesKept s)
  host _ _ _ _ h := hk h (linesKept_of_drive_eq rfl rfl rfl id)
  reading _ _ _ h := hk h (linesKept_of_drive_eq rfl rfl rfl id)
  ncause v s h := hk h (linesKept_of_drive_eq (by rw [writeNcause_frame]) (by rw [writeNcause_frame])
    (by rw [writeNcause_frame]) (writeNcause_running v))
  nmask _ _ h := hk h (linesKept_of_drive_eq rfl rfl rfl id)
  run1 s h := hk h (linesKept_of_eq (fun c => by rw [writeRun1_frame]; exact ⟨rfl, rfl⟩) (by rw [writeRun1_frame])
    (by rw [writeRun1_slot]) (by rw [writeRun1_slot]) writeRun1_running)
  run0 s h := hk h (writeRun0_linesKept s)
  post _ kind notify a s h := by
    rw [postAtCursor_frame]
    exact hk h (linesKept_of_drive_eq rfl rfl rfl id)
  board _ h := hk h (linesKept_of_drive_eq rfl rfl rfl id)

/-! ### The release of a line (R145) -/

/-- What a line released by an activation says of the state after it. -/
theorem activate_released {s : State} (hr : s.governor.state = .running) {c : Chain}
    (h : ((activate s).drive.chains.get c).mute = false) :
    (activate s).governor.state = .running ∧ ((activate s).slot.inForce.get c).force.state ≠ .muted ∧
      (activate s).supervisor.cutRequest.get c = false ∧ ((activate s).drive.chains.get c).cut = false ∧
      (activate s).slot.prepared = none := by
  have hp : (activate s).slot.prepared = none := by
    unfold activate activatePrepared activateOrphan
    split <;> rfl
  have hm : muteReason (activate s) c = false := by
    rw [← h]
    unfold activate
    split <;> exact (muteReason_settleMutes _ c).trans (settleMutes_mute _ c).symm
  rw [Bool.eq_false_iff, ne_eq, muteReason_iff] at hm
  push Not at hm
  obtain ⟨hrun, hcut, hlink, hforce, -⟩ := hm
  exact ⟨hrun, hforce, Bool.eq_false_iff.2 hcut, Bool.eq_false_iff.2 hlink, hp⟩

/-- A line asserted before a command and not after it was released by an activation in RUNNING. -/
theorem released_by_activation {i : Instr} {s t : State} {c : Chain} (he : exec i s = .next t)
    (hs : (s.drive.chains.get c).mute = true) (ht : (t.drive.chains.get c).mute = false) :
    raises i .activate = true ∧ s.governor.state = .running ∧ t = activate s := by
  by_cases ha : raises i .activate = true
  · have hne : t ≠ s := fun heq => by
      rw [heq, hs] at ht
      cases ht
    refine ⟨ha, ?_, (exec_activate_cases he ha).resolve_left hne⟩
    by_contra hr
    exact hne (exec_activate_not_running he ha hr)
  · have kept : KeptByEvents (fun x => raises i x = true) (fun s => (s.drive.chains.get c).mute = true) :=
      keptByEvents_of_lines (fun hm h => h.lines c hm) fun h => absurd h ha
    have := kept.command (fun _ h => h) hs he
    rw [ht] at this
    cases this

theorem keptByEvents_muteLaw : KeptByEvents (fun _ => True) MuteLaw :=
  keptByEvents_of_lines (fun hm h => h.muteLaw hm) fun _ => settleMutes_muteLaw

/-- Settles O20: the lines are settled at an activation and only asserted elsewhere. -/
theorem everyStepKeepsTheMuteLines : Obligations.EveryStepKeepsTheMuteLines := by
  refine ⟨keptByEvents_muteLaw.step (fun _ => trivial) fun _ _ h => h, muteReason_iff, fun i s t c he hs ht => ?_⟩
  obtain ⟨ha, hr, rfl⟩ := released_by_activation he hs ht
  obtain ⟨hrun, hforce, hcut, hlink, hp⟩ := activate_released hr ht
  exact ⟨ha, hr, hrun, hforce, hcut, hlink, hp⟩

end Sys2Proof.Machine
end

section
/-! Exchange memory and its header (R178, R182, R183): every event writes only where a structure stands, and the header's
fields are those of their owners after every event. -/

namespace Sys2Proof.Machine

/-! ### The canonical form and the unassigned addresses (R178) -/

/-- An address that no structure of exchange memory uses (R178). -/
def Unassigned (x : Nat) : Prop :=
  InRun 0x0D00 0x300 x ∨ InRun 0x1800 0x800 x ∨ 0x4000 ≤ x

theorem MapLaw.of_lands {p : Nat → Prop} {s t : State} (hl : Lands p s.xm t.xm) (hp : ∀ x, p x → ¬Unassigned x)
    (h : MapLaw s) : MapLaw t :=
  ⟨hl.wf h.1, fun x hx => (hl.kept x fun hpx => hp x hpx hx).trans (h.2 x hx)⟩

theorem MapLaw.of_eq {s t : State} (hx : t.xm = s.xm) (h : MapLaw s) : MapLaw t := by
  unfold MapLaw
  rwa [hx]

theorem not_unassigned_of_lt {x : Nat} (h : x < 0x0D00) : ¬Unassigned x := by
  unfold Unassigned InRun
  omega

theorem not_unassigned_of_entry {e : BitVec 5} {x : Nat} (h : InRun (entryAddr e) 32 x) : ¬Unassigned x :=
  not_unassigned_of_lt (by
    have := entryAddr_bounds e
    unfold InRun at h
    omega)

theorem not_unassigned_of_outcome {n : Half} {x : Nat} (h : InRun (outcomeAddr n) 64 x) : ¬Unassigned x :=
  not_unassigned_of_lt (by have := outcome_run_bounds n x h; omega)

theorem not_unassigned_of_fault {x : Nat} (h : InRun 0x0C00 256 x) : ¬Unassigned x :=
  not_unassigned_of_lt h.2

theorem not_unassigned_of_hostWritable {x : Nat} (h : hostWritable x) : ¬Unassigned x := by
  unfold hostWritable at h
  unfold Unassigned
  simp only [InRun] at *
  omega

theorem warmReset_mapLaw {s : State} (h : MapLaw s) : MapLaw (warmReset s) :=
  h.of_lands (warmReset_lands s) fun x hx => by
    obtain hx | hx | hx | hx | hx := hx
    · exact not_unassigned_of_lt (by unfold InRun at hx; omega)
    · exact not_unassigned_of_lt (by unfold InRun at hx; omega)
    · exact not_unassigned_of_lt (by unfold InRun at hx; omega)
    · exact not_unassigned_of_fault hx
    · exact not_unassigned_of_entry hx

theorem powerOnReset_mapLaw (s : State) : MapLaw (powerOnReset s) := by
  refine ⟨⟨by show xmAtPowerOn.Pairwise _; decide, by show ∀ p ∈ xmAtPowerOn, _; decide⟩, fun x hx => ?_⟩
  have hb : ∀ p ∈ xmAtPowerOn, p.1 < 0x0D00 := by decide
  refine memRead_eq_zero (m := xmAtPowerOn) fun p hp he => ?_
  exact not_unassigned_of_lt (he ▸ hb p hp) hx

theorem activation_run_assigned {n : Half} {x : Nat} (h : InRun 0x0002 4 x ∨ InRun (outcomeAddr n) 64 x) :
    ¬Unassigned x := by
  obtain h | h := h
  · exact not_unassigned_of_lt (by unfold InRun at h; omega)
  · exact not_unassigned_of_outcome h

theorem putStepMirror_lands (s : State) : Lands (InRun 8 4) s.xm (putStepMirror s).xm :=
  .store fun x h1 h2 => ⟨h1, by simpa using h2⟩

theorem putSlotMirror_lands (s : State) : Lands (InRun 2 2) s.xm (putSlotMirror s).xm :=
  .store fun x h1 h2 => ⟨h1, by simpa using h2⟩

theorem writeRun0_lands (s : State) : Lands (InRun (outcomeAddr s.slot.n) 64) s.xm (writeRun0 s).xm := by
  unfold writeRun0
  split
  · exact .refl _ _
  · exact .refl _ _
  · exact leaveSlots_lands s.thermal.steps s
  · exact .refl _ _
  · exact .refl _ _

theorem keptByEvents_mapLaw : KeptByEvents (fun _ => True) MapLaw where
  powerOn _ s _ := powerOnReset_mapLaw s
  warm _ _ h := warmReset_mapLaw h
  pins _ _ h := h
  prepare _ _ _ h _ := h
  activatePrepared _ p s h _ _ := h.of_lands (activatePrepared_lands p s) fun _ => activation_run_assigned
  activateOrphan _ s h _ _ := h.of_lands (activateOrphan_lands s) fun _ => activation_run_assigned
  transfer _ _ h := h.of_eq (by rw [transferCompleted_frame])
  estimator _ _ h := h.of_lands (putStepMirror_lands _) fun _ hx => not_unassigned_of_lt (by unfold InRun at hx; omega)
  watch _ _ h _ := h
  stop _ why stamp s h := h.of_lands (requestStop_lands why stamp s) fun _ => not_unassigned_of_outcome
  table _ s h := h.of_lands (evaluateTable_lands s) fun _ => not_unassigned_of_fault
  scanDone _ _ _ h := h.of_eq (by rw [scanCompleted_frame])
  setupSlots _ _ _ _ _ _ h _ _ _ _ :=
    h.of_lands (putSlotMirror_lands _) fun _ hx => not_unassigned_of_lt (by unfold InRun at hx; omega)
  setupChain _ _ _ _ h _ _ _ _ _ _ := h
  setupCondition _ _ _ _ _ _ _ _ h _ := h.of_eq (replaceEntry_xm _ _ _)
  setupSupply _ _ _ h _ := h
  setupChannel _ _ _ _ h _ _ _ _ _ := h
  loadTaken _ _ _ h := h
  drop _ _ _ h := h
  measuring _ _ _ h _ _ := h
  captureOn _ _ _ _ _ h _ _ _ _ _ := h
  captureOff _ _ h := h
  release _ c s h _ _ := h.of_lands (releaseLatch_lands c s) fun _ => not_unassigned_of_fault
  discard _ e s h _ := h.of_lands (putEntry_lands e 5 .ok [] s) fun _ => not_unassigned_of_entry
  complete _ state why data notify s h _ := h.of_lands (completeEntry_lands state why data notify s) fun x hx =>
    hx.elim not_unassigned_of_entry fun he => not_unassigned_of_lt (by omega)
  active _ _ s h _ _ := h.of_lands (putEntry_lands s.directives.cursor 2 .ok [] s) fun _ => not_unassigned_of_entry
  timer _ _ _ _ h _ _ := h
  measure _ _ _ _ h _ := h
  loadDone _ _ h _ := h.of_eq (by rw [finishLoad_frame])
  calibrate _ _ _ h _ := h.of_eq (by rw [applyCalibration_frame])
  settle _ _ h _ := h
  captureStep _ _ h := h.of_eq (by rw [captureStep_frame])
  burst b s h _ := by
    refine MapLaw.of_eq (quietAfterBurst_xm _) (h.of_lands (landBurst_lands b s) fun x hx => ?_)
    unfold Unassigned
    simp only [InRun] at *
    omega
  stoppedIfQuiet _ h := h.of_eq (by rw [enterStoppedIfQuiet_frame])
  host _ a data s h := h.of_lands (hostWrite_lands s.xm a data) fun _ => not_unassigned_of_hostWritable
  reading _ _ _ h := h
  ncause _ _ h := h.of_eq (by rw [writeNcause_frame])
  nmask _ _ h := h
  run1 _ h := h.of_eq (by rw [writeRun1_frame])
  run0 s h := h.of_lands (writeRun0_lands s) fun _ => not_unassigned_of_outcome
  post _ kind notify a s h := h.of_lands (postAtCursor_lands kind notify a s) fun _ => not_unassigned_of_entry
  board s h := h.of_lands (publishBoard_lands s) fun _ hx => not_unassigned_of_lt (by unfold InRun at hx; omega)

/-! ### The header's fields (R182) -/

/-- The header of a memory shows layout version 1 and these values. -/
structure HeaderShows (m : Memory) (n : Half) (cursor : Byte) (steps : Stamp) (w : Half) (lost : Nat) : Prop where
  version : memRead16 m 0x0000 = 1
  slot : memRead16 m 0x0002 = n
  cursor : memRead m 0x0006 = cursor
  steps : memRead32 m 0x0008 = steps
  w : memRead16 m 0x000C = w
  lost : (memRead16 m 0x000E).toNat = lost

theorem headerLaw_iff (s : State) :
    HeaderLaw s ↔ HeaderShows s.xm s.slot.n (s.directives.cursor.setWidth 8) s.thermal.steps s.capture.w s.capture.lost :=
  ⟨fun ⟨h1, h2, h3, h4, h5, h6⟩ => ⟨h1, h2, h3, h4, h5, h6⟩, fun ⟨h1, h2, h3, h4, h5, h6⟩ => ⟨h1, h2, h3, h4, h5, h6⟩⟩

theorem memRead32_memStore_of_outside {m : Memory} {a : Nat} {bs : List Byte} {x : Nat}
    (h : x + 3 < a ∨ a + bs.length ≤ x) : memRead32 (memStore m a bs) x = memRead32 m x := by
  rw [memRead32, memRead32, memRead16_memStore_of_outside (by omega), memRead16_memStore_of_outside (by omega)]

namespace HeaderShows

variable {m : Memory} {n : Half} {cur : Byte} {st : Stamp} {wi : Half} {l : Nat}

/-- Bytes 0 to 15 outside the addresses of a change. -/
theorem of_lands (h : HeaderShows m n cur st wi l) {p : Nat → Prop} {m' : Memory} (hl : Lands p m m')
    (hp : ∀ x, p x → 16 ≤ x) : HeaderShows m' n cur st wi l := by
  have hk (x : Nat) (hx : x < 16) : memRead m' x = memRead m x := hl.kept x fun hpx => by
    have := hp x hpx
    omega
  have h16 (x : Nat) (hx : x < 15) : memRead16 m' x = memRead16 m x := by
    rw [memRead16, memRead16, hk _ (by omega), hk _ (by omega)]
  obtain ⟨hv, hn, hc, hs, hw, hlost⟩ := h
  refine ⟨?_, ?_, ?_, ?_, ?_, ?_⟩
  · rw [h16 _ (by omega), hv]
  · rw [h16 _ (by omega), hn]
  · rw [hk _ (by omega), hc]
  · rw [← hs, memRead32, memRead32, h16 _ (by omega), h16 _ (by omega)]
  · rw [h16 _ (by omega), hw]
  · rw [h16 _ (by omega), hlost]

/-- The slot number's mirror renewed. -/
theorem putSlot (h : HeaderShows m n cur st wi l) (n' : Half) : HeaderShows (memStore m 2 (le16 n')) n' cur st wi l := by
  obtain ⟨hv, -, hc, hs, hw, hl⟩ := h
  exact ⟨(memRead16_memStore_of_outside (by simp)).trans hv, memRead16_memStore_le16 _ _ _,
    (memRead_memStore_of_outside (by simp)).trans hc, (memRead32_memStore_of_outside (by simp)).trans hs,
    (memRead16_memStore_of_outside (by simp)).trans hw, by rw [memRead16_memStore_of_outside (by simp), hl]⟩

/-- The last activated slot number is none of these fields. -/
theorem putLast (h : HeaderShows m n cur st wi l) (v : Half) : HeaderShows (memStore m 4 (le16 v)) n cur st wi l := by
  obtain ⟨hv, hn, hc, hs, hw, hl⟩ := h
  exact ⟨(memRead16_memStore_of_outside (by simp)).trans hv, (memRead16_memStore_of_outside (by simp)).trans hn,
    (memRead_memStore_of_outside (by simp)).trans hc, (memRead32_memStore_of_outside (by simp)).trans hs,
    (memRead16_memStore_of_outside (by simp)).trans hw, by rw [memRead16_memStore_of_outside (by simp), hl]⟩

/-- The cursor's mirror renewed. -/
theorem putCursor (h : HeaderShows m n cur st wi l) (cur' : Byte) :
    HeaderShows (memStore m 6 [cur']) n cur' st wi l := by
  obtain ⟨hv, hn, -, hs, hw, hl⟩ := h
  exact ⟨(memRead16_memStore_of_outside (by simp)).trans hv, (memRead16_memStore_of_outside (by simp)).trans hn,
    memRead_memStore_of_inside (i := 0) (by simp), (memRead32_memStore_of_outside (by simp)).trans hs,
    (memRead16_memStore_of_outside (by simp)).trans hw, by rw [memRead16_memStore_of_outside (by simp), hl]⟩

/-- The step counter's mirror renewed. -/
theorem putSteps (h : HeaderShows m n cur st wi l) (st' : Stamp) :
    HeaderShows (memStore m 8 (le32 st')) n cur st' wi l := by
  obtain ⟨hv, hn, hc, -, hw, hl⟩ := h
  exact ⟨(memRead16_memStore_of_outside (by simp)).trans hv, (memRead16_memStore_of_outside (by simp)).trans hn,
    (memRead_memStore_of_outside (by simp)).trans hc, memRead32_memStore_le32 _ _ _,
    (memRead16_memStore_of_outside (by simp)).trans hw, by rw [memRead16_memStore_of_outside (by simp), hl]⟩

/-- W and the lost count's mirrors renewed. -/
theorem putCapture (h : HeaderShows m n cur st wi l) (w' : Half) {l' : Nat} (hl : l' < 65536) :
    HeaderShows (memStore m 0xC (le16 w' ++ le16 (u16 l'))) n cur st w' l' := by
  obtain ⟨hv, hn, hc, hs, -, -⟩ := h
  have hb (i : Nat) (hi : i < 4) : memRead (memStore m 0xC (le16 w' ++ le16 (u16 l'))) (0xC + i) =
      (le16 w' ++ le16 (u16 l')).getD i 0 := memRead_memStore_of_inside (by simpa using hi)
  have hw : memRead16 (memStore m 0xC (le16 w' ++ le16 (u16 l'))) 0xC = w' := by
    have h0 := hb 0 (by omega)
    rw [Nat.add_zero] at h0
    rw [memRead16, h0, hb 1 (by omega)]
    exact le16_join w'
  have hlost : memRead16 (memStore m 0xC (le16 w' ++ le16 (u16 l'))) 0xE = u16 l' := by
    rw [memRead16, hb 2 (by omega), hb 3 (by omega)]
    exact le16_join _
  refine ⟨(memRead16_memStore_of_outside (by simp)).trans hv, (memRead16_memStore_of_outside (by simp)).trans hn,
    (memRead_memStore_of_outside (by simp)).trans hc, (memRead32_memStore_of_outside (by simp)).trans hs, hw, ?_⟩
  rw [hlost]
  simp only [u16, BitVec.toNat_ofNat]
  omega

theorem lost_lt (h : HeaderShows m n cur st wi l) : l < 65536 :=
  h.lost ▸ (memRead16 m 0xE).isLt

end HeaderShows

theorem HeaderLaw.of_lands {p : Nat → Prop} {s t : State} (hl : Lands p s.xm t.xm) (hp : ∀ x, p x → 16 ≤ x)
    (hn : t.slot.n = s.slot.n) (hc : t.directives.cursor = s.directives.cursor)
    (hs : t.thermal.steps = s.thermal.steps) (hw : t.capture.w = s.capture.w)
    (hlost : t.capture.lost = s.capture.lost) (h : HeaderLaw s) : HeaderLaw t := by
  rw [headerLaw_iff] at *
  rw [hn, hc, hs, hw, hlost]
  exact h.of_lands hl hp

theorem HeaderLaw.of_eq {s t : State} (hx : t.xm = s.xm) (hn : t.slot.n = s.slot.n) (hc : t.directives = s.directives)
    (hs : t.thermal = s.thermal) (hw : t.capture.w = s.capture.w) (hlost : t.capture.lost = s.capture.lost)
    (h : HeaderLaw s) : HeaderLaw t :=
  HeaderLaw.of_lands (p := fun _ => False) (hx ▸ .refl _ _) nofun hn (by rw [hc]) (by rw [hs]) hw hlost h

theorem sixteen_le_of_outcome {n : Half} {x : Nat} (h : InRun (outcomeAddr n) 64 x) : 16 ≤ x := by
  have := outcome_run_bounds n x h
  omega

theorem sixteen_le_of_fault {x : Nat} (h : InRun 0x0C00 256 x) : 16 ≤ x :=
  le_trans (by omega) h.1

theorem sixteen_le_of_entry {e : BitVec 5} {x : Nat} (h : InRun (entryAddr e) 32 x) : 16 ≤ x := by
  have := entryAddr_bounds e
  unfold InRun at h
  omega

/-- The end of an activation renews N and its mirror. -/
theorem advanceSlot_headerLaw {s : State} (h : HeaderLaw s) : HeaderLaw (settleMutes (advanceSlot s)) :=
  (headerLaw_iff _).2 ((((headerLaw_iff s).1 h).putLast s.slot.n).putSlot (s.slot.n + 1))

theorem writeOutcome_headerLaw {s : State} (o : SlotOutcome) (h : HeaderLaw s) : HeaderLaw (writeOutcome o s) :=
  h.of_lands (writeOutcome_lands o s) (fun _ => sixteen_le_of_outcome) (by rw [writeOutcome_frame])
    (by rw [writeOutcome_frame]) (by rw [writeOutcome_frame]) (by rw [writeOutcome_frame]) (by rw [writeOutcome_frame])

theorem enterStoppedIfQuiet_headerLaw {s : State} (h : HeaderLaw s) : HeaderLaw (enterStoppedIfQuiet s) :=
  h.of_eq (by rw [enterStoppedIfQuiet_frame]) (by rw [enterStoppedIfQuiet_frame]) (by rw [enterStoppedIfQuiet_frame])
    (by rw [enterStoppedIfQuiet_frame]) (by rw [enterStoppedIfQuiet_frame]) (by rw [enterStoppedIfQuiet_frame])

theorem leaveSlots_headerLaw {s : State} (stamp : Stamp) (h : HeaderLaw s) : HeaderLaw (leaveSlots stamp s) := by
  simp only [leaveSlots, cancelPrepared]
  split
  · exact h
  · exact writeOutcome_headerLaw _ h

theorem requestStop_headerLaw {s : State} (why : StopReason) (stamp : Stamp) (h : HeaderLaw s) :
    HeaderLaw (requestStop why stamp s) := by
  unfold requestStop
  split
  · exact enterStoppedIfQuiet_headerLaw (leaveSlots_headerLaw (s := beginStopping why s) stamp h)
  · exact h

theorem writeRun0_headerLaw {s : State} (h : HeaderLaw s) : HeaderLaw (writeRun0 s) := by
  unfold writeRun0
  split
  · exact h
  · exact h
  · exact leaveSlots_headerLaw s.thermal.steps h
  · exact h
  · exact h

theorem synced_headerLaw {s : State} (b : Bool) (k : Cause) (h : HeaderLaw s) :
    HeaderLaw (setCauseIf b k (syncCuts s)) := by
  have hn : (syncCuts s).slot.n = s.slot.n := by rw [syncCuts_slot]
  refine HeaderLaw.of_eq (s := s) (synced_xm _ _ _) ?_ ?_ ?_ ?_ ?_ h
  · rw [setCauseIf_frame, ← hn]
  all_goals rw [setCauseIf_frame, syncCuts_frame]

theorem recordLatches_headerLaw {s : State} (before : State) (h : HeaderLaw s) : HeaderLaw (recordLatches before s) :=
  h.of_lands (recordLatches_lands before s) (fun _ => sixteen_le_of_fault) (by rw [recordLatches_frame])
    (by rw [recordLatches_frame]) (by rw [recordLatches_frame]) (by rw [recordLatches_frame])
    (by rw [recordLatches_frame])

theorem evaluateTable_headerLaw {s : State} (h : HeaderLaw s) : HeaderLaw (evaluateTable s) := by
  unfold evaluateTable
  exact synced_headerLaw _ _ (recordLatches_headerLaw s h)

theorem releaseLatch_headerLaw {s : State} (c : Chain) (h : HeaderLaw s) : HeaderLaw (releaseLatch c s) :=
  synced_headerLaw (s := withEntries _ (putFault c _)) _ _
    (h.of_lands (fault_lands c _ s.xm) (fun _ => sixteen_le_of_fault) rfl rfl rfl rfl rfl)

theorem landing_lost_lt {f lost : Nat} (b : List CaptureRecord) (h : lost < 65536) : (landing f lost b).2 < 65536 := by
  unfold landing
  split
  · dsimp only; omega
  · split
    · dsimp only; omega
    · split
      · split
        · exact h
        · dsimp only; omega
      · dsimp only; omega

theorem landBurst_headerLaw {s : State} (b : List CaptureRecord) (h : HeaderLaw s) : HeaderLaw (landBurst b s) := by
  have hs := (headerLaw_iff s).1 h
  have hl := landing_lost_lt (f := ringFill s.capture.w (readIndex s.xm)) b hs.lost_lt
  have hput := hs.of_lands (putRecords_lands (landing (ringFill s.capture.w (readIndex s.xm)) s.capture.lost b).1 s)
    fun x hx => le_trans (by omega) hx.1
  rw [headerLaw_iff]
  simp only [landBurst]
  rw [testThreshold_frame, putRecords_frame]
  exact hput.putCapture _ hl

theorem quietAfterBurst_headerLaw {s : State} (h : HeaderLaw s) : HeaderLaw (quietAfterBurst s) := by
  unfold quietAfterBurst
  split
  · exact enterStoppedIfQuiet_headerLaw (s := mapGovernor _ (stopCapture s)) h
  · exact h

/-- The header rewritten whole shows what its owners hold, whatever it showed before. -/
theorem putHeader_headerLaw {s : State} (hl : s.capture.lost < 65536) : HeaderLaw (putHeader s) := by
  rw [headerLaw_iff]
  have first : HeaderShows (memStore s.xm 0 (le16 1)) _ _ _ _ _ :=
    ⟨memRead16_memStore_le16 _ _ _, rfl, rfl, rfl, rfl, rfl⟩
  exact ((((first.putSlot s.slot.n).putLast 0).putCursor (s.directives.cursor.setWidth 8)).putSteps
    s.thermal.steps).putCapture s.capture.w hl

theorem warmReset_headerLaw (s : State) : HeaderLaw (warmReset s) := by
  unfold warmReset
  have hl : (clearOutcomes (warmBlocks (abortActive s))).capture.lost < 65536 :=
    (by decide : (captureAtReset 0).lost < 65536)
  generalize clearOutcomes (warmBlocks (abortActive s)) = u at hl
  have h1 := putHeader_headerLaw hl
  generalize putHeader u = v at h1
  have h2 : HeaderLaw (putFaults v) := h1.of_lands (putFaults_lands v) (fun _ => sixteen_le_of_fault)
    (by rw [putFaults_frame]) (by rw [putFaults_frame]) (by rw [putFaults_frame]) (by rw [putFaults_frame])
    (by rw [putFaults_frame])
  exact h2.of_lands (publishBoard_lands _) (fun x hx => le_trans (by omega) hx.1) rfl rfl rfl rfl rfl

theorem completeEntry_headerLaw {s : State} (state : Byte) (why : ResultCode) (data : List Byte) (notify : Bool)
    (h : HeaderLaw s) : HeaderLaw (completeEntry state why data notify s) := by
  have hput : HeaderShows (putEntry s.directives.cursor state why data s).xm s.slot.n (s.directives.cursor.setWidth 8)
      s.thermal.steps s.capture.w s.capture.lost :=
    ((headerLaw_iff s).1 h).of_lands (putEntry_lands _ state why data s) fun _ => sixteen_le_of_entry
  rw [headerLaw_iff]
  simp only [completeEntry]
  rw [setCauseIf_frame]
  exact hput.putCursor _

theorem scanCompleted_headerLaw {s : State} (raw : Vector (BitVec 12) 11) (h : HeaderLaw s) :
    HeaderLaw (scanCompleted raw s) :=
  h.of_eq (by rw [scanCompleted_frame]) (by rw [scanCompleted_slot]) (by rw [scanCompleted_frame])
    (by rw [scanCompleted_frame]) (by rw [scanCompleted_frame]) (by rw [scanCompleted_frame])

theorem captureStep_headerLaw {s : State} (atStart : Bool) (h : HeaderLaw s) : HeaderLaw (captureStep atStart s) := by
  have hu : (captureStep atStart s).capture.w = s.capture.w ∧ (captureStep atStart s).capture.lost = s.capture.lost := by
    simp only [captureStep, countCapture, prepareBurst]
    split
    · split
      · exact ⟨rfl, rfl⟩
      · split
        · split <;> exact ⟨rfl, rfl⟩
        · exact ⟨rfl, rfl⟩
    · exact ⟨rfl, rfl⟩
  exact h.of_eq (by rw [captureStep_frame]) (by rw [captureStep_frame]) (by rw [captureStep_frame])
    (by rw [captureStep_frame]) hu.1 hu.2

theorem reset_headerLaw : HeaderLaw State.reset := by
  unfold HeaderLaw
  decide

theorem keptByEvents_headerLaw : KeptByEvents (fun _ => True) HeaderLaw where
  powerOn _ _ _ := reset_headerLaw
  warm _ s _ := warmReset_headerLaw s
  pins _ _ h := h
  prepare _ _ _ h _ := h
  activatePrepared _ p s h _ _ :=
    advanceSlot_headerLaw (writeOutcome_headerLaw _ (s := chargeAll (bringIntoForce p s)) h)
  activateOrphan _ s h _ _ := advanceSlot_headerLaw (writeOutcome_headerLaw _ (s := chargeAll s) h)
  transfer _ _ h := h.of_eq (by rw [transferCompleted_frame]) (by rw [transferCompleted_frame])
    (by rw [transferCompleted_frame]) (by rw [transferCompleted_frame]) (by rw [transferCompleted_frame])
    (by rw [transferCompleted_frame])
  estimator _ s h := (headerLaw_iff _).2 (((headerLaw_iff s).1 h).putSteps (s.thermal.steps + 1))
  watch _ _ h _ := h
  stop _ why stamp _ h := requestStop_headerLaw why stamp h
  table _ _ h := evaluateTable_headerLaw h
  scanDone _ raw _ h := scanCompleted_headerLaw raw h
  setupSlots _ n _ _ _ s h _ _ _ _ := (headerLaw_iff _).2 (((headerLaw_iff s).1 h).putSlot n)
  setupChain _ _ _ _ h _ _ _ _ _ _ := h
  setupCondition _ _ _ _ _ _ _ s h _ := synced_headerLaw (s := withEntries _ s) _ _ h
  setupSupply _ _ _ h _ := h
  setupChannel _ _ _ _ h _ _ _ _ _ := h
  loadTaken _ _ _ h := h
  drop _ _ _ h := h
  measuring _ _ _ h _ _ := h
  captureOn _ _ _ _ _ h _ _ _ _ _ := h
  captureOff _ _ h := h
  release _ c _ h _ _ := releaseLatch_headerLaw c h
  discard _ e s h _ := h.of_lands (putEntry_lands e 5 .ok [] s) (fun _ => sixteen_le_of_entry) rfl rfl rfl rfl rfl
  complete _ state why data notify _ h _ := completeEntry_headerLaw state why data notify h
  active _ _ s h _ _ :=
    h.of_lands (putEntry_lands s.directives.cursor 2 .ok [] s) (fun _ => sixteen_le_of_entry) rfl rfl rfl rfl rfl
  timer _ _ _ _ h _ _ := h
  measure _ _ _ _ h _ := h
  loadDone _ _ h _ := by
    rw [finishLoad_frame]
    exact h
  calibrate _ _ _ h _ := by
    rw [applyCalibration_frame]
    exact h
  settle _ _ h _ := h
  captureStep atStart _ h := captureStep_headerLaw atStart h
  burst b _ h _ := quietAfterBurst_headerLaw (landBurst_headerLaw b h)
  stoppedIfQuiet _ h := enterStoppedIfQuiet_headerLaw h
  host _ a data s h := h.of_lands (hostWrite_lands s.xm a data)
    (fun x hx => by unfold hostWritable at hx; simp only [InRun] at hx; omega) rfl rfl rfl rfl rfl
  reading _ _ _ h := h
  ncause _ _ h := h.of_eq (by rw [writeNcause_frame]) (by rw [writeNcause_frame]) (by rw [writeNcause_frame])
    (by rw [writeNcause_frame]) (by rw [writeNcause_frame]) (by rw [writeNcause_frame])
  nmask _ _ h := h
  run1 _ h := h.of_eq (by rw [writeRun1_frame]) (by rw [writeRun1_slot]) (by rw [writeRun1_frame])
    (by rw [writeRun1_frame]) (by rw [writeRun1_frame]) (by rw [writeRun1_frame])
  run0 _ h := writeRun0_headerLaw h
  post _ kind notify a s h := h.of_lands (postAtCursor_lands kind notify a s) (fun _ => sixteen_le_of_entry)
    (by rw [postAtCursor_frame]) (by rw [postAtCursor_frame]) (by rw [postAtCursor_frame])
    (by rw [postAtCursor_frame]) (by rw [postAtCursor_frame])
  board s h := h.of_lands (publishBoard_lands s) (fun x hx => le_trans (by omega) hx.1) rfl rfl rfl rfl rfl

/-- Settles O60: two inductions over the part's events. -/
theorem everyStepKeepsTheMapAndTheHeader : Obligations.EveryStepKeepsTheMapAndTheHeader :=
  ⟨keptByEvents_mapLaw.step (fun _ => trivial) fun _ _ h => h,
    keptByEvents_headerLaw.step (fun _ => trivial) fun _ _ h => h⟩

end Sys2Proof.Machine
end

section
/-! The directive list: an entry reads ACTIVE only at the cursor (R151), the host's fields of an entry are the host's alone
(R149, R150), and a LATCHED condition is left only through a RELEASE_LATCH or a power-on reset (R102). -/

namespace Sys2Proof.Machine

/-! ### The list's bytes -/

/-- The bytes of the directive list are as before. -/
def ListBytesKept (s t : State) : Prop :=
  ∀ x, 0x0800 ≤ x → x < 0x0C00 → memRead t.xm x = memRead s.xm x

theorem SlotListKept.list {s t : State} (h : SlotListKept s t) : ListBytesKept s t :=
  fun x h1 h2 => h.bytes x (.inr ⟨h1, by omega⟩)

theorem ListBytesKept.of_lands {p : Nat → Prop} {s t : State} (h : Lands p s.xm t.xm)
    (hp : ∀ x, p x → x < 0x0800 ∨ 0x0C00 ≤ x) : ListBytesKept s t :=
  fun x h1 h2 => h.kept x fun hpx => by
    have := hp x hpx
    omega

theorem ListBytesKept.of_eq {s t : State} (h : t.xm = s.xm) : ListBytesKept s t :=
  fun _ _ _ => by rw [h]

/-- A byte of an entry. -/
theorem ListBytesKept.entry {s t : State} (h : ListBytesKept s t) (e : BitVec 5) {k : Nat} (hk : k < 32) :
    memRead t.xm (entryAddr e + k) = memRead s.xm (entryAddr e + k) := by
  have := entryAddr_bounds e
  exact h _ (by omega) (by omega)

theorem ListBytesKept.state {s t : State} (h : ListBytesKept s t) (e : BitVec 5) :
    entryState t.xm e = entryState s.xm e :=
  h.entry e (k := 0) (by omega)

theorem activatePrepared_list (p : Prepared) (s : State) : ListBytesKept s (activatePrepared p s) :=
  .of_lands (activatePrepared_lands p s) fun x hx => hx.elim (fun h => by unfold InRun at h; omega)
    fun h => .inl (outcome_run_bounds _ x h).2

theorem activateOrphan_list (s : State) : ListBytesKept s (activateOrphan s) :=
  .of_lands (activateOrphan_lands s) fun x hx => hx.elim (fun h => by unfold InRun at h; omega)
    fun h => .inl (outcome_run_bounds _ x h).2

theorem setupSlots_list (n : Half) (code : Fin 4) (m w : Nat) (s : State) : ListBytesKept s (setupSlots n code m w s) :=
  .of_lands (p := InRun 2 2) (.store fun x h1 h2 => ⟨h1, by simpa using h2⟩) fun x hx => by unfold InRun at hx; omega

/-- A warm reset ends the active directive's entry and leaves the list else. -/
theorem warmReset_list (s : State) : ListBytesKept (abortActive s) (warmReset s) := by
  unfold warmReset
  have h2 : ListBytesKept (abortActive s) (clearOutcomes (warmBlocks (abortActive s))) :=
    .of_lands (p := InRun 0x0400 0x400) (.store fun x h1 h2 => ⟨h1, by simpa using h2⟩)
      fun x hx => by unfold InRun at hx; omega
  generalize clearOutcomes (warmBlocks (abortActive s)) = u at h2
  have h3 : ListBytesKept u (putHeader u) := .of_lands (putHeader_lands u) fun x hx => by unfold InRun at hx; omega
  have h4 := (putFaults_slotListKept (putHeader u)).list
  have h5 := (publishBoard_slotListKept (putFaults (putHeader u))).list
  exact fun x hl hu => (h5 x hl hu).trans ((h4 x hl hu).trans ((h3 x hl hu).trans (h2 x hl hu)))

theorem warmReset_entryState (s : State) (e : BitVec 5) :
    entryState (warmReset s).xm e =
      if s.directives.active.isSome = true ∧ e = s.directives.cursor then 4 else entryState s.xm e := by
  rw [(warmReset_list s).state, abortActive]
  by_cases ha : s.directives.active.isSome = true
  · rw [if_pos ha, entryState_putEntry]
    simp only [ha, true_and]
  · rw [if_neg ha, if_neg fun hc => ha hc.1]

theorem warmReset_hostByte (s : State) (e : BitVec 5) {k : Nat} (h1 : 1 ≤ k) (h2 : k < 24) (h3 : k ≠ 3) :
    memRead (warmReset s).xm (entryAddr e + k) = memRead s.xm (entryAddr e + k) := by
  rw [(warmReset_list s).entry e (by omega), abortActive]
  split
  · exact putEntry_keeps _ e k h1 h2 h3 _ _ _ s
  · rfl

theorem powerOnReset_entryState (s : State) (e : BitVec 5) : entryState (powerOnReset s).xm e = 0 := by
  have hb : ∀ p ∈ xmAtPowerOn, p.1 < 0x0800 := by decide
  have := entryAddr_bounds e
  exact memRead_eq_zero (m := xmAtPowerOn) fun p hp he => by
    have := hb p hp
    omega

/-- The host makes no entry ACTIVE and ends no ACTIVE one (R150). -/
theorem active_hostWrite (e : BitVec 5) (bs : List Byte) (m : Memory) (a : Half) :
    entryState (hostWrite m a bs) e = 2 ↔ entryState m e = 2 := by
  induction bs generalizing m a with
  | nil => rfl
  | cons b bs ih =>
    have he := entryAddr_bounds e
    exact (ih _ _).trans (active_hostByte m a.toNat b (entryAddr e) he.1 (by omega) (by unfold entryAddr; omega))

/-! ### ACTIVE at the cursor (R151) -/

theorem ActiveEntryLaw.of_list {s t : State} (hb : ListBytesKept s t) (hd : t.directives = s.directives)
    (h : ActiveEntryLaw s) : ActiveEntryLaw t := fun e => by
  rw [hb.state, hd]
  exact h e

/-- With no directive active the law says that no entry reads ACTIVE. -/
theorem activeEntryLaw_of_none {s : State} (ha : s.directives.active = none) (h : ∀ e, entryState s.xm e ≠ 2) :
    ActiveEntryLaw s := fun e => by
  rw [ha]
  exact ⟨fun he => absurd he (h e), nofun⟩

theorem completeEntry_entryState (st : Byte) (why : ResultCode) (data : List Byte) (notify : Bool) (s : State)
    (e : BitVec 5) :
    entryState (completeEntry st why data notify s).xm e =
      if e = s.directives.cursor then st else entryState s.xm e := by
  split
  · next h =>
    subst h
    exact (completeEntry_completed st why data notify s s rfl).1.1
  · next h => exact entryState_completeEntry_other h

theorem postAtCursor_activeEntryLaw {s : State} (kind : Byte) (notify : Bool) (a : List Byte) (h : ActiveEntryLaw s) :
    ActiveEntryLaw (postAtCursor kind notify a s) := by
  by_cases h2 : entryState s.xm s.directives.cursor = 2
  · rwa [postAtCursor, if_pos h2]
  · have hd : (postAtCursor kind notify a s).directives = s.directives := by rw [postAtCursor_frame]
    intro e
    rw [hd, ← h e]
    by_cases he : e = s.directives.cursor
    · rw [he, (postAtCursor_reads kind notify a s h2).1]
      exact ⟨fun h1 => absurd h1 (by decide), fun h1 => absurd h1 h2⟩
    · rw [entryState_postAtCursor_other he]

theorem keptByEvents_activeEntryLaw : KeptByEvents (fun _ => True) ActiveEntryLaw where
  powerOn _ s _ := activeEntryLaw_of_none rfl fun e => by
    rw [powerOnReset_entryState]
    decide
  warm _ s h := activeEntryLaw_of_none (by rw [warmReset_frame]; rfl) fun e => by
    rw [warmReset_entryState]
    split
    · decide
    · next hn => exact fun h2 => hn ((h e).1 h2)
  pins _ _ h := h
  prepare _ _ _ h _ := h
  activatePrepared _ p s h _ _ := h.of_list (activatePrepared_list p s) (by rw [activatePrepared_frame])
  activateOrphan _ s h _ _ := h.of_list (activateOrphan_list s) (by rw [activateOrphan_frame])
  transfer ack s h := h.of_list (transferCompleted_slotListKept ack s).list (by rw [transferCompleted_frame])
  estimator _ s h := h.of_list (stepEstimator_slotListKept s).list rfl
  watch _ _ h _ := h
  stop _ why stamp s h := h.of_list (requestStop_slotListKept why stamp s).list (by rw [requestStop_frame])
  table _ s h := h.of_list (evaluateTable_slotListKept s).list (by rw [evaluateTable_frame])
  scanDone _ raw s h := h.of_list (scanCompleted_slotListKept raw s).list (by rw [scanCompleted_frame])
  setupSlots _ n code m w s h _ _ _ _ := h.of_list (setupSlots_list n code m w s) rfl
  setupChain _ _ _ _ h _ _ _ _ _ _ := h
  setupCondition _ _ _ _ _ _ _ s h _ := h.of_list (replaceEntry_slotListKept _ _ s).list (by rw [replaceEntry_frame])
  setupSupply _ _ _ h _ := h
  setupChannel _ _ _ _ h _ _ _ _ _ := h
  loadTaken _ _ _ h := h
  drop _ _ _ h := h
  measuring _ _ _ h _ _ := h
  captureOn _ _ _ _ _ h _ _ _ _ _ := h
  captureOff _ _ h := h
  release _ c s h _ _ := h.of_list (releaseLatch_slotListKept c s).list (by rw [releaseLatch_frame])
  discard _ e s h he f := by
    rw [entryState_putEntry]
    show _ ↔ s.directives.active.isSome = true ∧ f = s.directives.cursor
    rw [← h f]
    split
    · next hf => rw [hf, he]; decide
    · rfl
  complete _ st why data notify s h hst := activeEntryLaw_of_none (by rw [completeEntry_frame]) fun e => by
    rw [completeEntry_entryState]
    split
    · obtain rfl | rfl := hst <;> decide
    · next he => exact fun h2 => he ((h e).1 h2).2
  active _ a s h ha _ e := by
    show entryState (putEntry s.directives.cursor 2 .ok [] s).xm e = 2 ↔ true = true ∧ e = s.directives.cursor
    rw [entryState_putEntry]
    split
    · next he => simp [he]
    · next he => exact ⟨fun h2 => absurd ((h e).1 h2).2 he, fun h2 => absurd h2.2 he⟩
  timer _ a t s h ha _ e := (h e).trans (by rw [ha]; rfl)
  measure _ _ _ _ h _ := h
  loadDone _ s h _ := h.of_list (finishLoad_slotListKept s).list (by rw [finishLoad_frame])
  calibrate _ _ s h _ := h.of_list (applyCalibration_slotListKept _ s).list (by rw [applyCalibration_frame])
  settle _ _ h _ := h
  captureStep atStart s h := h.of_list (captureStep_slotListKept atStart s).list (by rw [captureStep_frame])
  burst b s h _ := h.of_list (burst_slotListKept b s).list (by rw [quietAfterBurst_frame, landBurst_frame])
  stoppedIfQuiet s h := h.of_list (enterStoppedIfQuiet_slotListKept s).list (by rw [enterStoppedIfQuiet_frame])
  host _ a data s h e := (active_hostWrite e data s.xm a).trans (h e)
  reading _ _ _ h := h
  ncause v s h := h.of_list (writeNcause_slotListKept v s).list (by rw [writeNcause_frame])
  nmask _ _ h := h
  run1 s h := h.of_list (writeRun1_slotListKept s).list (by rw [writeRun1_frame])
  run0 s h := h.of_list (writeRun0_slotListKept s).list (by rw [writeRun0_frame])
  post _ kind notify a _ h := postAtCursor_activeEntryLaw kind notify a h
  board s h := h.of_list (publishBoard_slotListKept s).list rfl

/-! ### Running the directive list -/

/-- A RELEASE_LATCH stands POSTED in the list. -/
def ReleasePosted (s : State) : Prop :=
  ∃ e, entryState s.xm e = 1 ∧ entryKind s.xm e = 0x0C

/-- What the part makes of the directive list without the host: the host's fields of every entry stand, none becomes
POSTED, a LATCHED entry stays so unless a RELEASE_LATCH stands POSTED at the start, and no reset pin moves. -/
structure DirectivesRun (s t : State) : Prop where
  host : ∀ e k, 1 ≤ k → k < 24 → k ≠ 3 → memRead t.xm (entryAddr e + k) = memRead s.xm (entryAddr e + k)
  posted : ∀ e, entryState t.xm e = 1 → entryState s.xm e = 1
  latched : ∀ id, condState s id = .latched → condState t id = .latched ∨ ReleasePosted s
  pins : t.pins = s.pins

theorem ListBytesKept.run {s t : State} (h : ListBytesKept s t)
    (hl : ∀ id, condState s id = .latched → condState t id = .latched) (hp : t.pins = s.pins) : DirectivesRun s t :=
  ⟨fun e k _ hk _ => h.entry e (by omega), fun e he => h.state e ▸ he, fun id hid => .inl (hl id hid), hp⟩

namespace DirectivesRun

theorem of_eq {s t : State} (hx : t.xm = s.xm) (hs : t.supervisor = s.supervisor) (hp : t.pins = s.pins) :
    DirectivesRun s t :=
  (ListBytesKept.of_eq hx).run (fun id h => by rwa [condState, hs]) hp

theorem of_list {s t : State} (h : SlotListKept s t) (hs : t.supervisor = s.supervisor) (hp : t.pins = s.pins) :
    DirectivesRun s t :=
  h.list.run (fun id h => by rwa [condState, hs]) hp

theorem refl (s : State) : DirectivesRun s s := of_eq rfl rfl rfl

theorem kind {s t : State} (h : DirectivesRun s t) (e : BitVec 5) : entryKind t.xm e = entryKind s.xm e :=
  h.host e 1 le_rfl (by omega) (by omega)

theorem trans {s t u : State} (h : DirectivesRun s t) (g : DirectivesRun t u) : DirectivesRun s u where
  host e k h1 h2 h3 := (g.host e k h1 h2 h3).trans (h.host e k h1 h2 h3)
  posted e he := h.posted e (g.posted e he)
  latched id hid := by
    obtain ht | hr := h.latched id hid
    · exact (g.latched id ht).imp_right fun ⟨e, h1, h2⟩ => ⟨e, h.posted e h1, h.kind e ▸ h2⟩
    · exact .inr hr
  pins := g.pins.trans h.pins

/-- An event that runs the list, where a reset does not hold it off. -/
theorem unlessHeld {f : State → State} (hf : ∀ u, DirectivesRun u (f u)) (s : State) :
    DirectivesRun s (Machine.unlessHeld f s) :=
  KeptByEvents.held (inv := DirectivesRun s) (fun u h => h.trans (hf u)) (refl s)

/-- An event that runs the list, where it comes about. -/
theorem whenever {f : State → State} (hf : ∀ u, DirectivesRun u (f u)) (b : Bool) (s : State) :
    DirectivesRun s (if b = true then f s else s) :=
  KeptByEvents.whenever (inv := DirectivesRun s) (fun u h => h.trans (hf u)) b (refl s)

end DirectivesRun

theorem putEntry_run {st : Byte} (h : st ≠ 1) (e : BitVec 5) (why : ResultCode) (data : List Byte) (s : State) :
    DirectivesRun s (putEntry e st why data s) where
  host f k h1 h2 h3 := putEntry_keeps e f k h1 h2 h3 st why data s
  posted f := (putEntry_served h e why data s).posted f
  latched _ hid := .inl hid
  pins := rfl

theorem completeEntry_run {st : Byte} (h : st ≠ 1) (why : ResultCode) (data : List Byte) (notify : Bool) (s : State) :
    DirectivesRun s (completeEntry st why data notify s) := by
  refine (putEntry_run h s.directives.cursor why data s).trans ?_
  unfold completeEntry
  dsimp only
  rw [setCauseIf_frame]
  exact .of_list (.of_lands (p := fun x => x = 6) rfl (.store fun x h1 h2 => by simp at h2; omega) fun x hx => by omega)
    rfl rfl

theorem settle_run (notify : Bool) {s : State} {t : Taken} (h : DirectivesRun s t.after) :
    DirectivesRun s (settle notify t) := by
  cases t with
  | done u data => exact h.trans (completeEntry_run (by decide) .ok data notify u)
  | failed u why data => exact h.trans (completeEntry_run (by decide) why data notify u)
  | active u kind timer =>
    exact h.trans ((putEntry_run (st := 2) (by decide) u.directives.cursor .ok [] u).trans (.of_eq rfl rfl rfl))

/-! ### The takes -/

theorem setupEntry_latched {trip : Int} {dwell : Nat} {recovery : Int} {hold : Nat} {cap : Int} {e : CondEntry}
    (h : e.state = .latched) : (setupEntry trip dwell recovery hold cap e).state = .latched := by
  unfold setupEntry
  dsimp only
  rw [if_neg fun hd => hd.2 h]
  exact h

theorem replaceEntry_run (i : Fin 19) {e : CondEntry} {s : State}
    (he : condState s i = .latched → e.state = .latched) : DirectivesRun s (replaceEntry i e s) :=
  (replaceEntry_slotListKept i e s).list.run (fun id hid => by
    rw [replaceEntry_condState]
    split
    · next h => exact he (h ▸ hid)
    · exact hid) (by rw [replaceEntry_frame])

theorem takeSlotSetup_run (a : List Byte) (s : State) : DirectivesRun s (takeSlotSetup a s).after := by
  unfold takeSlotSetup badArgument
  split
  · split
    · exact .refl s
    · split
      · exact .refl s
      · exact (setupSlots_list _ _ _ _ s).run (fun _ h => h) rfl
  · exact .refl s

theorem takeConditionSetup_run (a : List Byte) (s : State) : DirectivesRun s (takeConditionSetup a s).after := by
  unfold takeConditionSetup badArgument
  split
  · dsimp only
    split
    · exact .refl s
    · exact replaceEntry_run _ setupEntry_latched
  · exact .refl s

theorem takeReleaseLatch_run (a : List Byte) {s : State} (h : ReleasePosted s) :
    DirectivesRun s (takeReleaseLatch a s).after := by
  unfold takeReleaseLatch badArgument
  split
  · dsimp only
    split
    · exact .refl s
    · split
      · exact .refl s
      · have hk := (releaseLatch_slotListKept ⟨arg8 a 4, by assumption⟩ s).list
        exact ⟨fun e k _ hk2 _ => hk.entry e (by omega), fun e he => hk.state e ▸ he, fun _ _ => .inr h,
          by show (releaseLatch _ s).pins = _; rw [releaseLatch_frame]⟩
  · exact .refl s

theorem discardRun_run (fuel : Nat) (e : BitVec 5) (s : State) : DirectivesRun s (discardRun fuel e s).1 := by
  induction fuel generalizing e s with
  | zero => exact .refl s
  | succ fuel ih =>
    unfold discardRun
    split
    · exact (putEntry_run (by decide) e .ok [] s).trans (ih _ _)
    · exact .refl s

/-- The kinds whose take touches neither exchange memory nor the condition table. -/
theorem takeKind_quiet {kind : Nat} (a : List Byte) (s : State) (h1 : kind ≠ 1) (h3 : kind ≠ 3) (h12 : kind ≠ 12)
    (h14 : kind ≠ 14) : (takeKind kind a s).after.xm = s.xm ∧ (takeKind kind a s).after.supervisor = s.supervisor ∧
      (takeKind kind a s).after.pins = s.pins := by
  unfold takeKind
  split
  · exact absurd rfl h1
  · unfold takeChainSetup badArgument
    split_ifs <;> exact ⟨rfl, rfl, rfl⟩
  · exact absurd rfl h3
  · unfold takeSupplySetup badArgument
    split_ifs <;> exact ⟨rfl, rfl, rfl⟩
  · unfold takeSensorSetup badArgument
    split_ifs <;> exact ⟨rfl, rfl, rfl⟩
  · unfold takeProfileLoad badArgument
    split_ifs <;> exact ⟨rfl, rfl, rfl⟩
  · unfold takeProfileDrop badArgument
    split_ifs <;> exact ⟨rfl, rfl, rfl⟩
  · exact ⟨rfl, rfl, rfl⟩
  · exact ⟨rfl, rfl, rfl⟩
  · unfold takeCaptureStart badArgument
    dsimp only
    split
    · exact ⟨rfl, rfl, rfl⟩
    · split
      · exact ⟨rfl, rfl, rfl⟩
      · split_ifs <;> exact ⟨rfl, rfl, rfl⟩
  · unfold takeCaptureStop
    split_ifs <;> exact ⟨rfl, rfl, rfl⟩
  · exact absurd rfl h12
  · unfold takePause badArgument
    split_ifs <;> exact ⟨rfl, rfl, rfl⟩
  · exact absurd rfl h14
  · exact ⟨rfl, rfl, rfl⟩

/-- A kind handed to its owning block: RELEASE_LATCH alone ends a LATCHED entry. -/
theorem takeKind_run {kind : Nat} (a : List Byte) {s : State} (h : kind = 12 → ReleasePosted s) :
    DirectivesRun s (takeKind kind a s).after := by
  by_cases h1 : kind = 1
  · exact h1 ▸ takeSlotSetup_run a s
  by_cases h3 : kind = 3
  · exact h3 ▸ takeConditionSetup_run a s
  by_cases h12 : kind = 12
  · subst h12
    exact takeReleaseLatch_run a (h rfl)
  by_cases h14 : kind = 14
  · exact h14 ▸ discardRun_run 31 _ s
  obtain ⟨hx, hs, hp⟩ := takeKind_quiet a s h1 h3 h12 h14
  exact .of_eq hx hs hp

theorem takeAtCursor_run {s : State} (h : entryState s.xm s.directives.cursor = 1) :
    DirectivesRun s (takeAtCursor s) := by
  refine settle_run _ ?_
  unfold takeDirective
  split
  · exact .refl s
  · split
    · exact takeKind_run _ fun hk => ⟨s.directives.cursor, h, BitVec.eq_of_toNat_eq hk⟩
    · exact .refl s

/-! ### The scan and the completions -/

theorem scanFrom_run (fuel : Nat) (s : State) : DirectivesRun s (scanFrom fuel s) := by
  induction fuel generalizing s with
  | zero => exact .refl s
  | succ fuel ih =>
    unfold scanFrom
    split
    · next h => exact (takeAtCursor_run h.2).trans (ih _)
    · exact .refl s

theorem scan_run (s : State) : DirectivesRun s (scan s) := by
  unfold scan
  split
  · exact .refl s
  · exact scanFrom_run 32 s

theorem completeActive_run (a : ActiveDirective) {s : State} {t : Taken} (h : DirectivesRun s t.after) :
    DirectivesRun s (completeActive a t) :=
  (settle_run a.notify h).trans (scan_run _)

/-- The completion work of a timed directive touches neither exchange memory nor the condition table. -/
theorem answerTimed_quiet (kind : ActiveKind) (s : State) :
    (answerTimed kind s).after.xm = s.xm ∧ (answerTimed kind s).after.supervisor = s.supervisor ∧
      (answerTimed kind s).after.pins = s.pins := by
  cases kind with
  | profileLoad j =>
    have h : (finishLoad s).xm = s.xm ∧ (finishLoad s).supervisor = s.supervisor ∧ (finishLoad s).pins = s.pins := by
      rw [finishLoad_frame]
      exact ⟨rfl, rfl, rfl⟩
    simp only [answerTimed, answerLoad]
    split <;> exact h
  | calibrate =>
    have h (k : Calibration) : (applyCalibration k s).xm = s.xm ∧ (applyCalibration k s).supervisor = s.supervisor ∧
        (applyCalibration k s).pins = s.pins := by
      rw [applyCalibration_frame]
      exact ⟨rfl, rfl, rfl⟩
    simp only [answerTimed, answerCalibrate]
    split <;> exact h _
  | selftest => exact ⟨rfl, rfl, rfl⟩
  | captureStop => exact ⟨rfl, rfl, rfl⟩
  | pause n => exact ⟨rfl, rfl, rfl⟩

theorem directiveStep_run (m : Measurement) (s : State) : DirectivesRun s (directiveStep m s) := by
  unfold directiveStep
  split
  · exact scan_run s
  · next a _ =>
    split
    · exact .refl s
    · have h : DirectivesRun s (stepMeasurement a.kind m s) := by cases a.kind <;> exact .of_eq rfl rfl rfl
      obtain ⟨hx, hs, hp⟩ := answerTimed_quiet a.kind (stepMeasurement a.kind m s)
      dsimp only
      split
      · exact h.trans (completeActive_run a (.of_eq hx hs hp))
      · exact h.trans (.of_eq rfl rfl rfl)

theorem nudgeWrite_run (s : State) : DirectivesRun s (nudgeWrite s) := by
  unfold nudgeWrite
  split
  · exact .refl s
  · exact scan_run s

theorem burst_run (b : List CaptureRecord) (s : State) : DirectivesRun s (quietAfterBurst (landBurst b s)) :=
  .of_list (burst_slotListKept b s) (by rw [quietAfterBurst_frame, landBurst_frame]) (by rw [quietAfterBurst_frame, landBurst_frame])

theorem stopCapture_run (s : State) : DirectivesRun s (stopCapture s) := .of_eq rfl rfl rfl

theorem burstCompleted_run (s : State) : DirectivesRun s (burstCompleted s) := by
  unfold burstCompleted
  split
  · exact .refl s
  · next b _ =>
    have h := burst_run b s
    unfold afterBurst
    dsimp only
    split
    · split
      · exact h.trans (completeActive_run _ (t := .done (stopCapture _) []) (stopCapture_run _))
      · exact h
    · exact h

theorem enterStopped_run (ack : Bool) (s : State) : DirectivesRun s (enterStopped ack s) := by
  unfold enterStopped
  split
  · split
    · split
      · exact .of_list (enterStoppedIfQuiet_slotListKept s) (by rw [enterStoppedIfQuiet_frame]) (by rw [enterStoppedIfQuiet_frame])
      · exact burstCompleted_run s
    · split
      · exact .of_list (transferCompleted_slotListKept ack s) (by rw [transferCompleted_frame]) (by rw [transferCompleted_frame])
      · exact .refl s
  · exact .refl s

/-! ### The register writes of a transaction -/

theorem writeGctl_run {v : Half} (hv : v.getLsbD 1 = false) (s : State) : DirectivesRun s (writeGctl v s) := by
  unfold writeGctl
  rw [if_neg (Bool.eq_false_iff.mp hv)]
  split
  · exact .of_list (writeRun1_slotListKept s) (by rw [writeRun1_frame]) (by rw [writeRun1_frame])
  · exact .of_list (writeRun0_slotListKept s) (by rw [writeRun0_frame]) (by rw [writeRun0_frame])

theorem writeUpperRegisters_run (start : Half) (data : List Byte) (s : State) :
    DirectivesRun s (writeUpperRegisters start data s) := by
  have ncause (v : Half) (u : State) (h : DirectivesRun s u) : DirectivesRun s (writeNcause v u) :=
    h.trans (.of_list (writeNcause_slotListKept v u) (by rw [writeNcause_frame]) (by rw [writeNcause_frame]))
  have nmask (v : Half) (u : State) (h : DirectivesRun s u) : DirectivesRun s (writeNmask v u) :=
    h.trans (.of_eq rfl rfl rfl)
  have h := KeptByEvents.writeHalf nmask (halfAt start data 0x4008)
    (KeptByEvents.writeHalf ncause (halfAt start data 0x4006) (.refl s))
  unfold writeUpperRegisters
  dsimp only
  split
  · exact h.trans (nudgeWrite_run _)
  · exact h

/-- The register writes of a transaction without a warm reset. -/
theorem writeRegisters_run {start : Half} {data : List Byte}
    (hw : ∀ v, halfAt start data 0x4002 = some v → v.getLsbD 1 = false) (s : State) :
    DirectivesRun s (writeRegisters start data s) := by
  unfold writeRegisters
  split
  · next v hv =>
    have h := writeGctl_run (hw v hv) s
    split
    · exact h
    · exact h.trans (writeUpperRegisters_run start data _)
  · exact writeUpperRegisters_run start data s

end Sys2Proof.Machine
end

section
/-! The commands that run directives, whole: what stays of the host's fields of an entry (R149, R150) and of the LATCHED
entries (R102). -/

namespace Sys2Proof.Machine

/-! ### Commands that run directives -/

/-- The command is a write transaction. -/
def WritesMemory (c : Instr) : Prop :=
  ∃ bytes, c = .spiWrite bytes ∨ c = .spiQuadWrite bytes

/-- The state at which a command's own posts have landed: POSTED stands only in entries that a scan within the command may
come upon, and but for a write transaction the host's fields of the entries not posted are as before. -/
structure PostsWritten (c : Instr) (s u : State) : Prop where
  posted : ∀ e, entryState u.xm e = 1 → MayBeTaken c s e
  supervisor : u.supervisor = s.supervisor
  pins : u.pins = s.pins
  host : ¬WritesMemory c → ∀ e k, postsAt c s e = false → k < 24 →
    memRead u.xm (entryAddr e + k) = memRead s.xm (entryAddr e + k)

theorem PostsWritten.none (c : Instr) (s : State) : PostsWritten c s s :=
  ⟨fun _ he => .inl he, rfl, rfl, fun _ _ _ _ _ => rfl⟩

theorem postAtCursor_postsWritten {c : Instr} {s : State} (hc : ∀ e, postsAt c s e = decide (e = s.directives.cursor))
    (kind : Byte) (notify : Bool) (a : List Byte) : PostsWritten c s (postAtCursor kind notify a (endReading s)) := by
  refine ⟨(postAtCursor_postsLanded hc kind notify a).posted, by rw [postAtCursor_frame]; rfl,
    by rw [postAtCursor_frame]; rfl, fun _ e k he hk => ?_⟩
  have hn : e.toNat ≠ s.directives.cursor.toNat := fun hh => by
    rw [hc, decide_eq_false_iff_not] at he
    exact he (BitVec.eq_of_toNat_eq hh)
  refine (postAtCursor_lands kind notify a (endReading s)).kept _ ?_
  simp only [InRun, entryAddr, endReading_directives]
  omega

/-- A write transaction without a warm reset: its bytes land, then its register writes run the list. -/
theorem writeTransaction_run {c : Instr} {bytes : List Byte} (hw : carriesWarmReset bytes = false) {s : State}
    (hc : ∀ e, postsAt c s e = writesPosted bytes e) (hm : WritesMemory c) :
    ∃ u, PostsWritten c s u ∧ DirectivesRun u (writeTransaction bytes s) := by
  unfold writeTransaction
  split
  · next hi lo data =>
    refine ⟨{ endReading s with xm := hostWrite s.xm (hi ++ lo) (data.take 256) },
      ⟨fun e he => ?_, rfl, rfl, fun hn => absurd hm hn⟩, writeRegisters_run (fun v hv => ?_) _⟩
    · have hl : (data.take 256).length ≤ 65536 := by
        rw [List.length_take]
        omega
      exact (entryState_hostWrite hl he).imp_right (And.imp_left fun hb => by rw [hc, writesPosted, hb]; rfl)
    · rwa [carriesWarmReset, hv] at hw
  · exact ⟨s, .none c s, .of_eq rfl rfl rfl⟩

/-- A command that runs directives, without a warm reset: its posts land, then the list is run. -/
theorem exec_directive_run {c : Instr} {s t : State} (he : exec c s = .next t) (hd : raises c .directive = true)
    (hw : raises c .warm = false) : ∃ u, PostsWritten c s u ∧ DirectivesRun u t := by
  have part {t : State} (h : DirectivesRun s t) : ∃ u, PostsWritten c s u ∧ DirectivesRun u t := ⟨s, .none c s, h⟩
  have step (m : Measurement) (b : Bool) := part (.whenever (.unlessHeld (directiveStep_run m)) b s)
  have row (hc : ∀ e, postsAt c s e = decide (e = s.directives.cursor)) (kind : Byte) (notify : Bool)
      (a : List Byte) : ∃ u, PostsWritten c s u ∧ DirectivesRun u (issue kind notify a s) := by
    unfold issue unlessHeld
    split
    · exact part (.refl s)
    · exact ⟨_, postAtCursor_postsWritten hc kind notify a, nudgeWrite_run _⟩
  have write (bytes : List Byte) (hb : carriesWarmReset bytes = false)
      (hc : ∀ e, postsAt c s e = writesPosted bytes e) (hm : WritesMemory c) :
      ∃ u, PostsWritten c s u ∧ DirectivesRun u (unlessHeld (writeTransaction bytes) s) := by
    unfold unlessHeld
    split
    · exact part (.refl s)
    · exact writeTransaction_run hb hc hm
  cases c <;> injection he with he <;> subst he
  case enterStopped ack => exact part (.unlessHeld (enterStopped_run ack) s)
  case directiveStepEvent m => exact part (.unlessHeld (directiveStep_run m) s)
  case nudge =>
    exact part (.unlessHeld (fun u => .trans (t := endReading u) (.of_eq rfl rfl rfl) (nudgeWrite_run _)) s)
  case profileLoadCompletion | pauseCompletion => exact step noMeasurement _
  case calibrateCompletion m | selftestCompletion m => exact step m _
  case burstCompletion => exact part (.unlessHeld burstCompleted_run s)
  case spiWrite bytes => exact write bytes (by simpa [raises] using hw) (fun _ => rfl) ⟨bytes, .inl rfl⟩
  case spiQuadWrite bytes => exact write bytes (by simpa [raises] using hw) (fun _ => rfl) ⟨bytes, .inr rfl⟩
  case slotSetup | chainSetup | conditionSetup | supplySetup | sensorSetup | profileLoad | profileDrop | calibrate |
      selftest | captureStart | captureStop | releaseLatch | pause | clearPending =>
    exact row (fun _ => rfl) _ _ _
  all_goals exact absurd hd Bool.false_ne_true

/-! ### The host's fields of an entry (R149, R150) -/

/-- Events other than the host's and the directives' leave a host's byte of an entry. -/
theorem keptByEvents_hostByte {ok : EventSort → Prop} (hp : ¬ok .powerOn) (hd : ¬ok .directive) (hh : ¬ok .hostWrite)
    (e : BitVec 5) {k : Nat} (h1 : 1 ≤ k) (h2 : k < 24) (h3 : k ≠ 3) (b : Byte) :
    KeptByEvents ok fun s => memRead s.xm (entryAddr e + k) = b := by
  have kept {s t : State} (h : ListBytesKept s t) (hs : memRead s.xm (entryAddr e + k) = b) :
      memRead t.xm (entryAddr e + k) = b := (h.entry e (by omega)).trans hs
  exact {
    powerOn := fun h => absurd h hp
    warm := fun _ s => (warmReset_hostByte s e h1 h2 h3).trans
    pins := fun _ _ => id
    prepare := fun _ _ _ h _ => h
    activatePrepared := fun _ p s h _ _ => kept (activatePrepared_list p s) h
    activateOrphan := fun _ s h _ _ => kept (activateOrphan_list s) h
    transfer := fun ack s => kept (transferCompleted_slotListKept ack s).list
    estimator := fun _ s => kept (stepEstimator_slotListKept s).list
    watch := fun _ _ h _ => h
    stop := fun _ why stamp s => kept (requestStop_slotListKept why stamp s).list
    table := fun _ s => kept (evaluateTable_slotListKept s).list
    scanDone := fun _ raw s => kept (scanCompleted_slotListKept raw s).list
    setupSlots := fun h => absurd h hd
    setupChain := fun h => absurd h hd
    setupCondition := fun h => absurd h hd
    setupSupply := fun h => absurd h hd
    setupChannel := fun h => absurd h hd
    loadTaken := fun h => absurd h hd
    drop := fun h => absurd h hd
    measuring := fun h => absurd h hd
    captureOn := fun h => absurd h hd
    captureOff := fun h => absurd h hd
    release := fun h => absurd h hd
    discard := fun h => absurd h hd
    complete := fun h => absurd h hd
    active := fun h => absurd h hd
    timer := fun h => absurd h hd
    measure := fun h => absurd h hd
    loadDone := fun h => absurd h hd
    calibrate := fun h => absurd h hd
    settle := fun h => absurd h hd
    captureStep := fun atStart s => kept (captureStep_slotListKept atStart s).list
    burst := fun b s h _ => kept (burst_slotListKept b s).list h
    stoppedIfQuiet := fun s => kept (enterStoppedIfQuiet_slotListKept s).list
    host := fun h => absurd h hh
    reading := fun _ _ _ => id
    ncause := fun v s => kept (writeNcause_slotListKept v s).list
    nmask := fun _ _ => id
    run1 := fun s => kept (writeRun1_slotListKept s).list
    run0 := fun s => kept (writeRun0_slotListKept s).list
    post := fun h => absurd h hd
    board := fun s => kept (publishBoard_slotListKept s).list }

theorem raises_hostWrite_iff (c : Instr) : raises c .hostWrite = true ↔ WritesMemory c := by
  constructor
  · intro h
    cases c
    case spiWrite bytes => exact ⟨bytes, .inl rfl⟩
    case spiQuadWrite bytes => exact ⟨bytes, .inr rfl⟩
    all_goals exact absurd h Bool.false_ne_true
  · rintro ⟨bytes, rfl | rfl⟩ <;> rfl

theorem eq_powerOnReset_of_raises {c : Instr} (h : raises c .powerOn = true) : c = .powerOnReset := by
  cases c
  case powerOnReset => rfl
  case spiWrite bytes | spiQuadWrite bytes => simp [raises] at h
  all_goals exact absurd h Bool.false_ne_true

/-- No command but a write transaction runs directives and carries a warm reset. -/
theorem raises_warm_of_directive {c : Instr} (hd : raises c .directive = true) (hm : ¬WritesMemory c) :
    raises c .warm = false := by
  cases c
  case spiWrite bytes => exact absurd ⟨bytes, .inl rfl⟩ hm
  case spiQuadWrite bytes => exact absurd ⟨bytes, .inr rfl⟩ hm
  all_goals first | rfl | exact absurd hd Bool.false_ne_true

/-- Settles O55: an induction over the part's events, and over the running of the list for the host's fields. -/
theorem everyStepKeepsOneActiveEntry : Obligations.EveryStepKeepsOneActiveEntry := by
  refine ⟨keptByEvents_activeEntryLaw.step (fun _ => trivial) fun _ _ h => h, ?_⟩
  intro i s t e k he hp hw hposts h1 h2 h3
  have hm : ¬WritesMemory i := fun ⟨bytes, hb⟩ => hb.elim (hw bytes).1 (hw bytes).2
  by_cases hd : raises i .directive = true
  · obtain ⟨u, hu, hr⟩ := exec_directive_run he hd (raises_warm_of_directive hd hm)
    exact (hr.host e k h1 h2 h3).trans (hu.host hm e k hposts h2)
  · exact (keptByEvents_hostByte (ok := fun x => raises i x = true) (fun h => hp (eq_powerOnReset_of_raises h)) hd
      (fun h => hm ((raises_hostWrite_iff i).1 h)) e h1 h2 h3 _).command (fun _ h => h) rfl he

/-! ### LATCHED entries (R102) -/

theorem evaluateEntry_of_latched {id : Fin 19} {e : CondEntry} (h : e.state = .latched) (side : Option Side) :
    evaluateEntry id e side = e := by
  unfold evaluateEntry
  split
  · rfl
  · rw [if_pos h]

/-- Only a stuck-drive entry trips into LATCHED. -/
theorem evaluateEntry_latched {id : Fin 19} {e : CondEntry} {side : Option Side}
    (h : (evaluateEntry id e side).state = .latched) : e.state = .latched ∨ StuckDrive id := by
  have tripped : (trippedEntry id e).state = .latched → StuckDrive id := (trippedEntry_lawful id e).1
  unfold evaluateEntry at h
  split at h
  · exact .inl h
  · split at h
    · exact .inl h
    · split at h
      · cases h
      · unfold moveEntry at h
        split at h
        · split at h
          · exact .inr (tripped h)
          · cases h
        · cases h
        · split at h
          · exact .inr (tripped h)
          · exact .inl h
        · cases h
        · split at h <;> cases h
        · exact .inl h
        · split at h
          · cases h
          · exact .inl h
        · cases h
        · exact .inl h

theorem evaluateTable_condState (s : State) (id : Fin 19) :
    condState (evaluateTable s) id =
      (evaluateEntry id s.supervisor.entries[id] (entrySide s id s.supervisor.entries[id])).state := by
  rw [condState, evaluateTable_entries, evaluatedEntries, vmapIdx_get]

theorem releaseLatch_condState (c : Chain) (s : State) (id : Fin 19) :
    condState (releaseLatch c s) id = if chainEntry c 2 = id then .clear else condState s id :=
  replaceEntry_condState _ _ _ _

/-- A property of one entry's state, kept by the events that move it, is kept by every event. -/
theorem keptByEvents_of_condition {ok : EventSort → Prop} {inv : CondState → Prop} (id : Fin 19)
    (powerOn : ok .powerOn → inv .clear) (warm : ok .warm → ∀ st, inv st → inv (if st = .latched then .latched else .clear))
    (table : ok .evaluation → ∀ e side, inv e.state → inv (evaluateEntry id e side).state)
    (setup : ok .directive → ∀ trip dwell recovery hold cap e, inv e.state →
      inv (setupEntry trip dwell recovery hold cap e).state)
    (release : ok .directive → inv .clear) : KeptByEvents ok fun s => inv (condState s id) := by
  have same {s t : State} (h : t.supervisor = s.supervisor) (hs : inv (condState s id)) : inv (condState t id) := by
    rwa [condState, h]
  exact {
    powerOn := fun h s _ => by rw [powerOnReset_condState]; exact powerOn h
    warm := fun h s hs => by rw [warmReset_condState]; exact warm h _ hs
    pins := fun _ _ h => h
    prepare := fun _ _ _ h _ => h
    activatePrepared := fun _ p s h _ _ => same (by rw [activatePrepared_frame]) h
    activateOrphan := fun _ s h _ _ => same (by rw [activateOrphan_frame]) h
    transfer := fun ack s => same (by rw [transferCompleted_frame])
    estimator := fun _ _ h => h
    watch := fun _ _ h _ => h
    stop := fun _ why stamp s => same (by rw [requestStop_frame])
    table := fun h s hs => by rw [evaluateTable_condState]; exact table h _ _ hs
    scanDone := fun _ raw s => same (by rw [scanCompleted_frame])
    setupSlots := fun _ _ _ _ _ _ h _ _ _ _ => h
    setupChain := fun _ _ _ _ h _ _ _ _ _ _ => h
    setupCondition := fun h k trip dwell recovery hold cap s hs _ => by
      rw [replaceEntry_condState]
      split
      · next hk => exact setup h _ _ _ _ _ _ (hk ▸ hs)
      · exact hs
    setupSupply := fun _ _ _ h _ => h
    setupChannel := fun _ _ _ _ h _ _ _ _ _ => h
    loadTaken := fun _ _ _ h => h
    drop := fun _ _ _ h => h
    measuring := fun _ _ _ h _ _ => h
    captureOn := fun _ _ _ _ _ h _ _ _ _ _ => h
    captureOff := fun _ _ h => h
    release := fun h c s hs _ _ => by
      rw [releaseLatch_condState]
      split
      · exact release h
      · exact hs
    discard := fun _ _ _ h _ => h
    complete := fun _ _ _ _ _ s h _ => same (by rw [completeEntry_frame]) h
    active := fun _ _ _ h _ _ => h
    timer := fun _ _ _ _ h _ _ => h
    measure := fun _ _ _ _ h _ => h
    loadDone := fun _ s h _ => same (by rw [finishLoad_frame]) h
    calibrate := fun _ _ s h _ => same (by rw [applyCalibration_frame]) h
    settle := fun _ _ h _ => h
    captureStep := fun _ s => same (by rw [captureStep_frame])
    burst := fun b s h _ => same (by rw [quietAfterBurst_frame, landBurst_frame]) h
    stoppedIfQuiet := fun s => same (by rw [enterStoppedIfQuiet_frame])
    host := fun _ _ _ _ h => h
    reading := fun _ _ _ h => h
    ncause := fun v s => same (by rw [writeNcause_frame])
    nmask := fun _ _ h => h
    run1 := fun s => same (by rw [writeRun1_frame])
    run0 := fun s => same (by rw [writeRun0_frame])
    post := fun _ kind notify a s => same (by rw [postAtCursor_frame])
    board := fun _ h => h }

/-- Only a stuck-drive entry enters LATCHED. -/
theorem keptByEvents_latchedIsStuckDrive (id : Fin 19) :
    KeptByEvents (fun _ => True) fun s => condState s id = .latched → StuckDrive id :=
  keptByEvents_of_condition (inv := fun st => st = .latched → StuckDrive id) id (fun _ => nofun)
    (fun _ st h => by
      split
      · next hl => exact fun _ => h hl
      · nofun)
    (fun _ _ _ h hl => (evaluateEntry_latched hl).elim h fun hs => hs)
    (fun _ _ _ _ _ _ _ h hl => (setupEntry_state _ _ _ _ _ _).elim (fun hc => by rw [hc] at hl; cases hl)
      fun hs => h (hs.symm.trans hl))
    fun _ => nofun

/-- A LATCHED entry stays so at every event but a power-on reset and those of the directive list. -/
theorem keptByEvents_latched {ok : EventSort → Prop} (hp : ¬ok .powerOn) (hd : ¬ok .directive) (id : Fin 19) :
    KeptByEvents ok fun s => condState s id = .latched :=
  keptByEvents_of_condition (inv := fun st => st = .latched) id (fun h => absurd h hp)
    (fun _ st h => by rw [h]; rfl) (fun _ e side h => by rw [evaluateEntry_of_latched h, h]) (fun h => absurd h hd)
    fun h => absurd h hd

/-- A write transaction that carries a warm reset ends with it. -/
theorem writeTransaction_warm {bytes : List Byte} (hw : carriesWarmReset bytes = true) (s : State) :
    ∃ u, u.supervisor = s.supervisor ∧ u.pins = s.pins ∧ writeTransaction bytes s = warmReset u := by
  unfold carriesWarmReset at hw
  split at hw
  · next hi lo data =>
    split at hw
    · next v hv =>
      refine ⟨{ endReading s with xm := hostWrite s.xm (hi ++ lo) (data.take 256) }, rfl, rfl, ?_⟩
      simp only [writeTransaction, landWrite, writeRegisters, hv, writeGctl, hw, if_true]
    · cases hw
  · cases hw

/-- A command that runs directives and carries a warm reset. -/
theorem exec_directive_warm {c : Instr} {s t : State} (he : exec c s = .next t) (hd : raises c .directive = true)
    (hw : raises c .warm = true) : 
    t = s ∨ ∃ u, u.supervisor = s.supervisor ∧ u.pins = s.pins ∧ t = warmReset u := by
  by_cases hm : WritesMemory c
  · obtain ⟨bytes, rfl | rfl⟩ := hm
    all_goals
      injection he with he
      subst he
      have hb : carriesWarmReset bytes = true := by simpa [raises] using hw
      obtain h | h := unlessHeld_cases (writeTransaction bytes) s
      · exact .inl h
      · obtain ⟨u, hu, hp, ht⟩ := writeTransaction_warm hb s
        exact .inr ⟨u, hu, hp, h.trans ht⟩
  · rw [raises_warm_of_directive hd hm] at hw
    cases hw

/-- Settles O39: by the running of the list where a command runs directives, by induction over the events elsewhere. -/
theorem latchedStaysUntilReleased : Obligations.LatchedStaysUntilReleased := by
  refine ⟨fun i s t id he hp hk hl => ?_, fun i s t id he hs => ?_⟩
  · by_cases hd : raises i .directive = true
    · by_cases hw : raises i .warm = true
      · obtain rfl | ⟨u, hu, -, rfl⟩ := exec_directive_warm he hd hw
        · exact hl
        · have hul : condState u id = .latched := by rwa [condState, hu]
          rw [warmReset_condState, if_pos hul]
      · obtain ⟨u, hu, hr⟩ := exec_directive_run he hd (Bool.eq_false_of_not_eq_true hw)
        have hul : condState u id = .latched := by rwa [condState, hu.supervisor]
        refine (hr.latched id hul).resolve_right fun ⟨e, h1, h2⟩ => ?_
        exact hk hd e (hu.posted e h1) ((hr.kind e).trans h2)
    · exact (keptByEvents_latched (ok := fun x => raises i x = true) (by simp [hp]) hd id).command (fun _ h => h) hl he
  · exact (keptByEvents_latchedIsStuckDrive id).command (fun _ _ => trivial) (fun h => absurd h hs) he

end Sys2Proof.Machine
end

section
/-! The machine as a whole: the step and its queue, the resets, the reset pins, and what a held reset shuts out
(R4, R168). -/

namespace Sys2Proof.Machine

/-- Settles O1: the definition of the step, on a queue with a front and on an empty one. -/
theorem stepRunsTheFrontCommand : Obligations.StepRunsTheFrontCommand :=
  ⟨fun _ _ _ => rfl, fun s h => by rw [step, h]⟩

/-- Settles O2: the three reset commands as defined. -/
theorem powerOnResetAndRelease : Obligations.PowerOnResetAndRelease :=
  ⟨fun _ => rfl, fun _ => rfl, fun _ => rfl⟩

/-! ### Every command answers (R168) -/

theorem exec_answers (c : Instr) (s : State) : ∃ t, exec c s = .next t := by
  cases c <;> exact ⟨_, rfl⟩

/-- No event touches the queue. -/
theorem keptByEvents_pending (q : List Instr) : KeptByEvents (fun _ => True) fun s => s.pending = q where
  powerOn _ _ h := h
  warm _ s h := by rw [warmReset_frame]; exact h
  pins _ _ h := h
  prepare _ _ _ h _ := h
  activatePrepared _ p s h _ _ := by rw [activatePrepared_frame]; exact h
  activateOrphan _ s h _ _ := by rw [activateOrphan_frame]; exact h
  transfer ack s h := by rw [transferCompleted_frame]; exact h
  estimator _ _ h := h
  watch _ _ h _ := h
  stop _ why stamp s h := by rw [requestStop_frame]; exact h
  table _ s h := by rw [evaluateTable_frame]; exact h
  scanDone _ raw s h := by rw [scanCompleted_frame]; exact h
  setupSlots _ _ _ _ _ _ h _ _ _ _ := h
  setupChain _ _ _ _ h _ _ _ _ _ _ := h
  setupCondition _ _ _ _ _ _ _ _ h _ := by rw [replaceEntry_frame]; exact h
  setupSupply _ _ _ h _ := h
  setupChannel _ _ _ _ h _ _ _ _ _ := h
  loadTaken _ _ _ h := h
  drop _ _ _ h := h
  measuring _ _ _ h _ _ := h
  captureOn _ _ _ _ _ h _ _ _ _ _ := h
  captureOff _ _ h := h
  release _ c s h _ _ := by rw [releaseLatch_frame]; exact h
  discard _ _ _ h _ := h
  complete _ _ _ _ _ s h _ := by rw [completeEntry_frame]; exact h
  active _ _ _ h _ _ := h
  timer _ _ _ _ h _ _ := h
  measure _ _ _ _ h _ := h
  loadDone _ s h _ := by rw [finishLoad_frame]; exact h
  calibrate _ _ s h _ := by rw [applyCalibration_frame]; exact h
  settle _ _ h _ := h
  captureStep _ s h := by rw [captureStep_frame]; exact h
  burst b s h _ := by rw [quietAfterBurst_frame, landBurst_frame]; exact h
  stoppedIfQuiet s h := by rw [enterStoppedIfQuiet_frame]; exact h
  host _ _ _ _ h := h
  reading _ _ _ h := h
  ncause v s h := by rw [writeNcause_frame]; exact h
  nmask _ _ h := h
  run1 s h := by rw [writeRun1_frame]; exact h
  run0 s h := by rw [writeRun0_frame]; exact h
  post _ kind notify a s h := by rw [postAtCursor_frame]; exact h
  board _ h := h

theorem activate_pins (s : State) : (activate s).pins = s.pins := by
  unfold activate
  split
  · rw [activatePrepared_frame]
  · rw [activateOrphan_frame]

theorem thermalStep_pins (s : State) : (thermalStep s).pins = s.pins := by
  unfold thermalStep
  rw [stepWatch_frame]
  rfl

theorem evaluate_pins (s : State) : (evaluate s).pins = s.pins := by
  rw [evaluate_frame]

theorem writeGctl_pins (v : Half) (s : State) : (writeGctl v s).pins = s.pins := by
  unfold writeGctl
  split
  · rw [warmReset_frame]
    rfl
  · split
    · rw [writeRun1_frame]
    · rw [writeRun0_frame]

theorem readCommand_pins (quad : Bool) (phase : ReadPhase) (s : State) : (readCommand quad phase s).pins = s.pins := by
  unfold readCommand
  split
  · split <;> rfl
  · split
    · split <;> rfl
    · rfl

theorem unlessHeld_pins {f : State → State} (hf : ∀ u, (f u).pins = u.pins) (s : State) :
    (unlessHeld f s).pins = s.pins := by
  obtain h | h := unlessHeld_cases f s
  · rw [h]
  · rw [h, hf]

theorem whenever_pins {f : State → State} (hf : ∀ u, (f u).pins = u.pins) (b : Bool) (s : State) :
    (if b = true then unlessHeld f s else s).pins = s.pins := by
  split
  · exact unlessHeld_pins hf s
  · rfl

theorem inRunning_pins {f : State → State} (hf : ∀ u, (f u).pins = u.pins) (s : State) :
    (inRunning f s).pins = s.pins := by
  unfold inRunning
  split
  · exact hf s
  · rfl

theorem registerTransaction_pins {write : State → State} (hw : ∀ u, (write u).pins = u.pins) (s : State) :
    (registerTransaction write s).pins = s.pins :=
  unlessHeld_pins (fun u => hw (endReading u)) s

theorem exec_pins_of_directive {c : Instr} {s t : State} (he : exec c s = .next t)
    (hd : raises c .directive = true) : t.pins = s.pins := by
  by_cases hw : raises c .warm = true
  · obtain rfl | ⟨u, -, hp, rfl⟩ := exec_directive_warm he hd hw
    · rfl
    · rw [warmReset_frame]
      exact hp
  · obtain ⟨u, hu, hr⟩ := exec_directive_run he hd (Bool.eq_false_of_not_eq_true hw)
    exact hr.pins.trans hu.pins

theorem prepare_pins (atTrip : Bool) (s : State) : (prepare atTrip s).pins = s.pins := by rw [prepare_frame]

theorem transferCompleted_pins (ack : Bool) (s : State) : (transferCompleted ack s).pins = s.pins := by
  rw [transferCompleted_frame]

theorem scanCompleted_pins (raw : Vector (BitVec 12) 11) (s : State) : (scanCompleted raw s).pins = s.pins := by
  rw [scanCompleted_frame]

theorem captureStep_pins (atStart : Bool) (s : State) : (captureStep atStart s).pins = s.pins := by
  rw [captureStep_frame]

theorem writeNcause_pins (v : Half) (s : State) : (writeNcause v s).pins = s.pins := by rw [writeNcause_frame]

/-- Only the three reset commands move the reset pins. -/
theorem exec_pins {c : Instr} {s t : State} (he : exec c s = .next t) (h1 : c ≠ .powerOnReset) (h2 : c ≠ .resetN)
    (h3 : ∀ source, c ≠ .resetRelease source) : t.pins = s.pins := by
  by_cases hd : raises c .directive = true
  · exact exec_pins_of_directive he hd
  cases c <;> obtain rfl := Host.Outcome.next.inj he
  case powerOnReset => exact absurd rfl h1
  case resetN => exact absurd rfl h2
  case resetRelease source => exact absurd rfl (h3 source)
  case slotp => exact unlessHeld_pins (inRunning_pins (prepare_pins _)) s
  case slota => exact unlessHeld_pins (inRunning_pins activate_pins) s
  case driveLinkCut | driveLinkCutClear => exact whenever_pins (inRunning_pins activate_pins) _ s
  case transferCompletion ack => exact unlessHeld_pins (transferCompleted_pins ack) s
  case thermalStep => exact unlessHeld_pins thermalStep_pins s
  case transmitWatchExpiry => exact whenever_pins thermalStep_pins _ s
  case conditionEvaluation => exact unlessHeld_pins evaluate_pins s
  case conditionTrip | conditionClear => exact whenever_pins evaluate_pins _ s
  case scanCompletion raw => exact unlessHeld_pins (scanCompleted_pins raw) s
  case settlingEnd raw | initComplete raw => exact whenever_pins (scanCompleted_pins raw) _ s
  case captureStepEvent atStart => exact unlessHeld_pins (captureStep_pins atStart) s
  case burstPreparation => exact whenever_pins (captureStep_pins false) _ s
  case statusBoardPublication => exact unlessHeld_pins (f := publishBoard) (fun _ => rfl) s
  case spiRead phase | spiQuadRead phase => exact unlessHeld_pins (readCommand_pins _ phase) s
  case runWritten1 | runWritten0 | warmReset => exact registerTransaction_pins (writeGctl_pins _) s
  case ncauseClear bits => exact registerTransaction_pins (writeNcause_pins bits) s
  case stoppedClear => exact registerTransaction_pins (writeNcause_pins _) s
  case nmask value => exact registerTransaction_pins (write := writeNmask value) (fun _ => rfl) s
  case registerWrite register value =>
    exact registerTransaction_pins (write := discardWrite register value) (fun _ => rfl) s
  case spiWrite | spiQuadWrite => exact (hd (by simp [raises])).elim
  all_goals exact (hd rfl).elim

/-- Settles O5: the queue by induction over the events, the pins command by command. -/
theorem everyCommandAnswersAndKeepsTheQueue : Obligations.EveryCommandAnswersAndKeepsTheQueue := by
  intro c s
  obtain ⟨t, he⟩ := exec_answers c s
  exact ⟨t, he, (keptByEvents_pending s.pending).command (fun _ _ => trivial) rfl he, exec_pins he⟩

/-! ### Held resets and strobes (R4, R168) -/

theorem unlessHeld_of_held {f : State → State} {s : State} (h : resetHeld s = true) : unlessHeld f s = s :=
  if_pos h

theorem unlessHeld_of_free {f : State → State} {s : State} (h : resetHeld s = false) : unlessHeld f s = f s := by
  rw [unlessHeld, h]
  rfl

/-- The outcome that goes on to a state is the one that goes on to another. -/
def GoesTo (s t : State) : Prop :=
  (Host.Outcome.next t : Host.Outcome State Fault Refusal) = .next s

/-- With a reset held, every command but the reset commands changes nothing. -/
theorem exec_of_held {c : Instr} {s : State} (h : resetHeld s = true) (h1 : c ≠ .powerOnReset) (h2 : c ≠ .resetN)
    (h3 : ∀ source, c ≠ .resetRelease source) : exec c s = .next s := by
  have held (f : State → State) : GoesTo s (unlessHeld f s) := congrArg Host.Outcome.next (unlessHeld_of_held h)
  have maybe (b : Bool) (f : State → State) : GoesTo s (if b = true then unlessHeld f s else s) := by
    rw [unlessHeld_of_held h, ite_self]
    rfl
  cases c
  case powerOnReset => exact absurd rfl h1
  case resetN => exact absurd rfl h2
  case resetRelease source => exact absurd rfl (h3 source)
  case driveLinkCut | driveLinkCutClear | transmitWatchExpiry | conditionTrip | conditionClear | settlingEnd |
      initComplete | profileLoadCompletion | calibrateCompletion | selftestCompletion | pauseCompletion |
      burstPreparation => exact maybe _ _
  all_goals exact held _

/-- Settles O6: every other command stands under the guard of a held reset, a strobe under that of RUNNING. -/
theorem heldResetsAndIdleStrobesShutOut : Obligations.HeldResetsAndIdleStrobesShutOut := by
  refine ⟨fun c s h => exec_of_held h, fun s h => ?_, fun c s hr hs => ?_⟩
  · show Host.Outcome.next { unlessHeld warmReset s with pins := { s.pins with resetLow := true } } = _
    rw [unlessHeld_of_held h]
  · obtain hp | ha := hr
    · cases c
      case slotp => exact congrArg Host.Outcome.next (strobe_not_running hs _)
      case spiWrite | spiQuadWrite => simp [raises] at hp
      all_goals exact absurd hp Bool.false_ne_true
    · obtain ⟨t, he⟩ := exec_answers c s
      rw [he, exec_activate_not_running he ha hs]

/-! ### The power-on reset's values (R168) -/

/-- Settles O4: each law at the reset state, most by the lemma that a power-on reset gives it. -/
theorem invariantsHoldAtReset : Obligations.InvariantsHoldAtReset :=
  ⟨powerOnReset_mapLaw State.reset, reset_headerLaw,
    activeEntryLaw_of_none rfl fun e he => absurd ((powerOnReset_entryState State.reset e).symm.trans he) (by decide),
    powerOnReset_thermalLaw State.reset, powerOnReset_cutLaw State.reset,
    fun c _ => by simp [State.reset, driveAtReset],
    ⟨⟨nofun, fun h => absurd rfl h⟩, fun h => absurd rfl h, fun _ => ⟨rfl, rfl⟩⟩, powerOnReset_storeLaw State.reset,
    pendingLaw_of_left rfl (fun c => by simp [State.reset, slotAtReset, mutedByGovernor]) rfl,
    governorLaw_of_reset rfl rfl rfl, powerOnReset_decisionLaw State.reset⟩

/-- The default parameters of each of the five sorts of condition entry (R118). -/
theorem reset_entries (c : Chain) :
    let e k := State.reset.supervisor.entries[chainEntry c k]
    ((e 0).trip = 9600 ∧ (e 0).dwell = 2 ∧ (e 0).recovery = 8320 ∧ (e 0).hold = 250) ∧
    ((e 1).trip = 6720 ∧ (e 1).dwell = 25 ∧ (e 1).recovery = 6080 ∧ (e 1).hold = 250 ∧ (e 1).cap = 80) ∧
    ((e 2).trip = 400 ∧ (e 2).dwell = 3) ∧ ((e 3).dwell = 5 ∧ (e 3).hold = 25 ∧ (e 3).cap = 68) := by
  revert c
  decide

/-- The board at reset is the one that the publication writes. -/
theorem reset_board : memBytes State.reset.xm 0x0040 448 = boardBytes State.reset := by decide +kernel

/-- Exchange memory at reset holds nothing but the layout version and the board. -/
theorem reset_xm_zero (a : Nat) (h0 : ¬InRun 0x0000 2 a) (hb : ¬InRun 0x0040 448 a) :
    memRead State.reset.xm a = 0 := by
  have hp : ∀ p ∈ xmAtPowerOn, p.1 < 2 ∨ (0x0040 ≤ p.1 ∧ p.1 < 0x0040 + 448) := by decide
  refine memRead_eq_zero (m := xmAtPowerOn) fun p hm he => ?_
  obtain h | h := hp p hm
  · exact h0 (he ▸ ⟨Nat.zero_le _, by omega⟩)
  · exact hb (he ▸ h)

/-- Settles O3: the reset state block by block. -/
theorem resetStateHoldsTheStatedValues : Obligations.ResetStateHoldsTheStatedValues := by
  have fill {α : Type} (x : α) : ∀ c, (PerChain.fill x).get c = x := PerChain.get_fill x
  refine ⟨rfl, rfl, fill _, rfl, rfl, rfl, rfl, rfl, rfl, rfl, fill _, fill _, fill _, rfl, rfl, fill _, ?_, rfl, ?_,
    reset_entries, rfl, rfl, rfl, ?_, rfl, rfl, rfl, ?_, ?_, rfl, rfl, rfl, rfl, fill _, rfl, rfl, rfl, rfl, rfl, rfl,
    rfl, rfl, rfl, rfl, rfl, rfl, rfl, rfl, rfl, rfl, by decide, reset_board, reset_xm_zero⟩
  · decide
  · decide
  · exact fun c => ⟨fill _ c, fill _ c, fill _ c⟩
  · decide
  · decide

end Sys2Proof.Machine
end

section
/-! A warm reset (R24, R77, R91, R119, R135, R148, R165, R167, R168, R183, R186, R189): every block's values, and what it
writes into exchange memory. -/

namespace Sys2Proof.Machine

/-! ### What the part writes of an entry -/

/-- The part writes an entry's state, its result code and its result data (R149). -/
theorem putEntry_written (e : BitVec 5) (st : Byte) (why : ResultCode) (data : List Byte) (s : State) :
    Lands (fun x => x = entryAddr e ∨ x = entryAddr e + 3 ∨ InRun (entryAddr e + 24) 8 x) s.xm
      (putEntry e st why data s).xm := by
  have hl : ((data ++ zeros 8).take 8).length = 8 := by simp
  refine ((Lands.store fun x h1 h2 => ?_).trans (.store fun x h1 h2 => ?_)).trans (.store fun x h1 h2 => ?_)
  · exact .inl (by simp at h2; omega)
  · exact .inr (.inl (by simp at h2; omega))
  · exact .inr (.inr ⟨h1, by omega⟩)

/-! ### The writes of a warm reset -/

theorem putHeader_lastActivated (s : State) : memRead16 (putHeader s).xm 4 = 0 := by
  unfold putHeader putCaptureMirror putStepMirror putCursorMirror
  simp only [partWrite_xm]
  rw [memRead16_memStore_of_outside (.inl (by omega)), memRead16_memStore_of_outside (.inl (by omega)),
    memRead16_memStore_of_outside (.inl (by omega))]
  exact memRead16_memStore_le16 _ _ _

theorem putFault_shows (c : Chain) (s : State) :
    memBytes (putFault c s).xm (faultAddr c) 64 = faultBytes (s.supervisor.faults.get c) := by
  have := memBytes_memStore s.xm (faultAddr c) (faultBytes (s.supervisor.faults.get c))
  rwa [faultBytes_length] at this

/-- Another chain's fault record stands. -/
theorem putFault_kept {c d : Chain} (h : d ≠ c) (s : State) :
    memBytes (putFault c s).xm (faultAddr d) 64 = memBytes s.xm (faultAddr d) 64 := by
  have hn : d.val ≠ c.val := fun hv => h (Fin.ext hv)
  refine memBytes_memStore_of_outside ?_
  simp only [faultBytes_length, faultAddr]
  omega

theorem putFaults_shows (s : State) (c : Chain) :
    memBytes (putFaults s).xm (faultAddr c) 64 = faultBytes (s.supervisor.faults.get c) := by
  unfold putFaults
  match c with
  | 0 => rw [putFault_kept (by decide), putFault_kept (by decide), putFault_kept (by decide), putFault_shows]
  | 1 =>
    rw [putFault_kept (by decide), putFault_kept (by decide), putFault_shows]
    rfl
  | 2 =>
    rw [putFault_kept (by decide), putFault_shows]
    rfl
  | 3 =>
    rw [putFault_shows]
    rfl

/-- A run of bytes outside the addresses of a change. -/
theorem Lands.memBytes {p : Nat → Prop} {m m' : Memory} (h : Lands p m m') {a n : Nat} (hp : ∀ x, InRun a n x → ¬p x) :
    Machine.memBytes m' a n = Machine.memBytes m a n := by
  unfold Machine.memBytes
  refine List.map_congr_left fun i hi => ?_
  rw [List.mem_range] at hi
  exact h.kept _ (hp _ ⟨by omega, by omega⟩)

/-- The last three writes of a warm reset, over a memory whose outcome calendar has been cleared. -/
theorem warmReset_tail (s : State) :
    ∃ u : State, warmReset s = publishBoard (putFaults (putHeader u)) ∧
      u.xm = memStore (abortActive s).xm 0x0400 (zeros 1024) ∧ u.supervisor.faults = s.supervisor.faults := by
  have hx (v : State) : (clearOutcomes (warmBlocks v)).xm = memStore v.xm 0x0400 (zeros 1024) := rfl
  have hf (v : State) : (clearOutcomes (warmBlocks v)).supervisor.faults = v.supervisor.faults := by
    simp only [clearOutcomes, partWrite_supervisor, warmBlocks, warmSupervisor]
  refine ⟨clearOutcomes (warmBlocks (abortActive s)), ?_, hx _, ?_⟩
  · unfold warmReset
    rfl
  · rw [hf, abortActive_frame]

theorem publishBoard_shows (s : State) : memBytes (publishBoard s).xm 0x0040 448 = boardBytes (publishBoard s) := by
  have := memBytes_memStore s.xm 0x0040 (boardBytes s)
  rw [boardBytes_length] at this
  exact this

theorem warmReset_board (s : State) : memBytes (warmReset s).xm 0x0040 448 = boardBytes (warmReset s) := by
  obtain ⟨u, he, -⟩ := warmReset_tail s
  rw [he]
  exact publishBoard_shows _

theorem warmReset_lastActivated (s : State) : memRead16 (warmReset s).xm 4 = 0 := by
  obtain ⟨u, he, -⟩ := warmReset_tail s
  have hk (x : Nat) (hx : x < 16) : memRead (warmReset s).xm x = memRead (putHeader u).xm x := by
    rw [he, (publishBoard_lands _).kept x (by unfold InRun; omega), (putFaults_lands _).kept x (by unfold InRun; omega)]
  rw [← putHeader_lastActivated u, memRead16, memRead16, hk _ (by omega), hk _ (by omega)]

theorem warmReset_outcomes (s : State) (a : Nat) (h : InRun 0x0400 0x400 a) : memRead (warmReset s).xm a = 0 := by
  obtain ⟨u, he, hu, -⟩ := warmReset_tail s
  unfold InRun at h
  rw [he, (publishBoard_lands _).kept a (by unfold InRun; omega), (putFaults_lands _).kept a (by unfold InRun; omega),
    (putHeader_lands u).kept a (by unfold InRun; omega), hu, memRead_memStore, if_pos (by simp; omega), zeros_getD]

theorem warmReset_faultRecords (s : State) (c : Chain) :
    memBytes (warmReset s).xm (faultAddr c) 64 = faultBytes (s.supervisor.faults.get c) := by
  obtain ⟨u, he, -, hf⟩ := warmReset_tail s
  have hh : (putHeader u).supervisor = u.supervisor := by rw [putHeader_frame]
  rw [he, (publishBoard_lands _).memBytes fun x hx => by simp only [InRun, faultAddr] at *; omega, putFaults_shows, hh,
    hf]

/-- The active directive's entry shows the abort (R165). -/
theorem warmReset_aborted (s : State) (h : s.directives.active.isSome = true) :
    EntryShows s (warmReset s) 4 .aborted [] := by
  have hl := warmReset_list s
  have he := entryAddr_bounds s.directives.cursor
  have ha : abortActive s = putEntry s.directives.cursor 4 .aborted [] s := if_pos h
  rw [ha] at hl
  obtain ⟨h1, h2, h3⟩ := putEntry_shows 4 .aborted [] s s rfl
  refine ⟨(hl.state _).trans h1, (hl.entry _ (by omega)).trans h2, ?_⟩
  rw [← h3]
  unfold memBytes
  refine List.map_congr_left fun i hi => ?_
  rw [List.mem_range] at hi
  exact hl _ (by omega) (by omega)

/-- What a warm reset writes, the entry of the directive that it ends byte by byte. -/
theorem warmReset_kept (s : State) :
    MemoryKept (fun a => InRun 0 16 a ∨ InRun 0x0040 448 a ∨ InRun 0x0400 0x400 a ∨ InRun 0x0C00 256 a ∨
      (s.directives.active.isSome = true ∧ (a = entryAddr s.directives.cursor ∨
        a = entryAddr s.directives.cursor + 3 ∨ InRun (entryAddr s.directives.cursor + 24) 8 a))) s (warmReset s) := by
  intro a ha
  push Not at ha
  obtain ⟨hheader, hboard, hout, hfault, hentry⟩ := ha
  obtain ⟨u, he, hu, -⟩ := warmReset_tail s
  rw [he, (publishBoard_lands _).kept a hboard, (putFaults_lands _).kept a hfault, (putHeader_lands u).kept a hheader, hu,
    memRead_memStore_of_outside (by rw [zeros_length]; unfold InRun at hout; omega), abortActive]
  split
  · next hact =>
    refine (putEntry_written _ _ _ _ s).kept a fun hw => ?_
    obtain ⟨n1, n2, n3⟩ := hentry hact
    obtain hw | hw | hw := hw
    · exact n1 hw
    · exact n2 hw
    · exact n3 hw
  · rfl

/-! ### The blocks -/

/-- A warm reset does not look at the read in progress. -/
theorem warmReset_endReading (s : State) : warmReset (endReading s) = warmReset s := by
  have h : abortActive (endReading s) = endReading (abortActive s) := by
    unfold abortActive
    split
    · next ha => rw [if_pos (show s.directives.active.isSome = true from ha)]; rfl
    · next ha => rw [if_neg (show ¬s.directives.active.isSome = true from ha)]
  unfold warmReset
  rw [h]
  rfl

theorem warmInForce_eq (s : State) (c : Chain) :
    warmInForce s c = ⟨.muted, if chainLatched s c then .lock else .governor⟩ := by
  unfold warmInForce
  split <;> rfl

theorem reset_entry (id : Fin 19) : State.reset.supervisor.entries[id] = condDefault id := by
  simp [State.reset, supervisorAtPowerOn]

theorem warmReset_entry (s : State) (id : Fin 19) :
    (warmReset s).supervisor.entries[id] =
      { State.reset.supervisor.entries[id] with state := if condState s id = .latched then .latched else .clear } := by
  rw [warmReset_frame, reset_entry]
  simp only [warmBlocks, warmSupervisor]
  rw [vmapIdx_get]
  rfl

theorem exec_warmReset {s : State} (h : resetHeld s = false) : exec .warmReset s = .next (warmReset s) := by
  show Host.Outcome.next (unlessHeld (fun u => writeGctl 2 (endReading u)) s) = _
  rw [unlessHeld_of_free h, writeGctl, if_pos (by decide), warmReset_endReading]

theorem exec_resetN {s : State} (h : resetHeld s = false) :
    exec .resetN s = .next { warmReset s with pins := { s.pins with resetLow := true } } := by
  show Host.Outcome.next { unlessHeld warmReset s with pins := { s.pins with resetLow := true } } = _
  rw [unlessHeld_of_free h]

/-- The blocks of a warm reset that the statement gives whole. -/
theorem warmReset_blocks (s : State) :
    (warmReset s).slot = { State.reset.slot with inForce := (warmReset s).slot.inForce } ∧
    (warmReset s).config = State.reset.config ∧ (warmReset s).supply = State.reset.supply ∧
    (warmReset s).thermal.steps = s.thermal.steps ∧ (warmReset s).store = { s.store with buffer := none } ∧
    (warmReset s).supervisor.faults = s.supervisor.faults ∧
    (warmReset s).supervisor.latchCount = s.supervisor.latchCount ∧
    (warmReset s).sensors = { State.reset.sensors with offset := s.sensors.offset, gain := s.sensors.gain } ∧
    (warmReset s).drive = State.reset.drive ∧ (warmReset s).directives = ⟨0, none⟩ ∧
    (warmReset s).capture = { State.reset.capture with w := memRead16 s.xm 0x003C } ∧
    (warmReset s).governor = State.reset.governor ∧ (warmReset s).port = ⟨0, 0, none, [], none⟩ ∧
    (warmReset s).pins = s.pins ∧ (warmReset s).pending = s.pending := by
  have h := warmReset_frame s
  generalize (warmReset s).xm = m at h
  rw [h]
  refine ⟨rfl, rfl, rfl, rfl, rfl, ?_, ?_, rfl, rfl, rfl, rfl, rfl, rfl, rfl, rfl⟩
  all_goals simp only [warmBlocks, warmSupervisor]

/-- What a warm reset makes of each chain (R24, R77, R119). -/
theorem warmReset_chain (s : State) (c : Chain) :
    (warmReset s).slot.inForce.get c = ⟨.muted, if chainLatched s c then .lock else .governor⟩ ∧
    (warmReset s).thermal.chains.get c = { s.thermal.chains.get c with
      tm := 6080, substituted := true, tj := 6080 + (s.thermal.chains.get c).rise } ∧
    (warmReset s).supervisor.cutRequest.get c = chainLatched s c := by
  rw [warmReset_frame]
  simp only [warmBlocks, warmSupervisor, PerChain.get_ofFn, PerChain.get_mapIdx, warmInForce_eq]
  exact ⟨trivial, rfl, trivial⟩

/-- Settles O7: the blocks by the frame of a warm reset, exchange memory by its four writes and the abort. -/
theorem warmResetKeepsWhatItMust : Obligations.WarmResetKeepsWhatItMust := by
  intro s h
  obtain ⟨hslot, hconfig, hsupply, hsteps, hstore, hfaults, hcount, hsensors, hdrive, hdirectives, hcapture, hgovernor,
    hport, hpins, hpending⟩ := warmReset_blocks s
  exact ⟨warmReset s, exec_warmReset h, exec_resetN h, hslot, fun c => (warmReset_chain s c).1, hconfig, hsupply, hsteps,
    fun c => (warmReset_chain s c).2.1, hstore, warmReset_entry s, fun c => (warmReset_chain s c).2.2, chainLatched_iff s,
    hfaults, hcount, hsensors, hdrive, hdirectives, hcapture, hgovernor, hport, hpins, hpending, warmReset_headerLaw s,
    warmReset_lastActivated s, warmReset_board s, warmReset_outcomes s, warmReset_faultRecords s, warmReset_aborted s,
    warmReset_kept s⟩

end Sys2Proof.Machine
end

section
/-! The governor's writes and the fault stop (R18, R22, R146, R170 to R176, R184, R185): leaving RUNNING, entering
STOPPING, the register rows. -/

namespace Sys2Proof.Machine

/-! ### Leaving RUNNING (R18, R172) -/

/-- The outcome of a cancelled slot sets no cause and is not MISSED. -/
theorem cancelPrepared_some {s : State} {p : Prepared} (stamp : Stamp) (h : s.slot.prepared = some p) :
    cancelPrepared stamp s = { s with
      slot := { s.slot with prepared := none, missCount := s.slot.carriedMiss, lastOutcomeMissed := false }
      xm := memStore s.xm (outcomeAddr s.slot.n) (outcomeBytes (cancelledOutcome p stamp s)) } := by
  unfold cancelPrepared
  rw [h]
  rfl

theorem leaveSlots_port (stamp : Stamp) (s : State) : (leaveSlots stamp s).port = s.port := by
  simp only [leaveSlots]
  cases h : s.slot.prepared with
  | none => rw [cancelPrepared, h]
  | some p => rw [cancelPrepared_some stamp h]

theorem leaveSlots_left (stamp : Stamp) (s : State) : SlotsLeft stamp s (leaveSlots stamp s) := by
  simp only [leaveSlots]
  cases h : s.slot.prepared with
  | none =>
    rw [cancelPrepared, h]
    refine ⟨?_, fun p hp => by rw [h] at hp; cases hp⟩
    simp only [h, Option.isSome_none, Bool.false_eq_true, if_false]
  | some p =>
    rw [cancelPrepared_some stamp h]
    refine ⟨by rw [h]; rfl, fun q hq => ?_⟩
    rw [h] at hq
    obtain rfl := Option.some.inj hq
    have := memBytes_memStore s.xm (outcomeAddr s.slot.n) (outcomeBytes (cancelledOutcome p stamp s))
    rwa [outcomeBytes_length] at this

theorem leaveSlots_kept (stamp : Stamp) (s : State) : MemoryKept (CancelledEntry s) s (leaveSlots stamp s) := by
  intro x hx
  cases h : s.slot.prepared with
  | none => simp only [leaveSlots, cancelPrepared, h]
  | some p => exact (leaveSlots_lands stamp s).kept x fun hr => hx ⟨by rw [h]; rfl, hr⟩

theorem leaveSlots_watch (stamp : Stamp) (s : State) : (leaveSlots stamp s).slot.watch = s.slot.watch := by
  rw [(leaveSlots_left stamp s).1]
  simp only [leaveSlots]
  cases h : s.slot.prepared with
  | none => rw [cancelPrepared, h]
  | some p => rw [cancelPrepared_some stamp h]

/-- Outside RUNNING every line is asserted. -/
theorem assertMutes_of_not_running {s : State} (h : s.governor.state ≠ .running) :
    assertMutes s = mapDrive (fun _ r => { r with mute := true }) s := by
  have hm (c : Chain) : muteReason s c = true := (muteReason_iff s c).2 (.inl h)
  simp only [assertMutes, hm, Bool.or_true]

/-- What leaving RUNNING makes of a chain's drive record. -/
theorem silenced_record {s : State} (h : s.governor.state ≠ .running) (c : Chain) :
    (assertMutes (discardWaiting s)).drive.chains.get c =
      { s.drive.chains.get c with waiting := none, mute := true } := by
  rw [assertMutes_of_not_running (by simpa [discardWaiting] using h)]
  simp [discardWaiting]

theorem leaveRunning_record (s : State) (c : Chain) :
    (leaveRunning s).drive.chains.get c = { s.drive.chains.get c with waiting := none, mute := true } := by
  unfold leaveRunning
  rw [assertMutes_of_not_running (by simp [keepResults, discardWaiting])]
  have hd : (leaveSlots s.thermal.steps s).drive = s.drive := by rw [leaveSlots_frame]
  simp [keepResults, discardWaiting, hd]

theorem leaveRunning_transfer (s : State) :
    (leaveRunning s).drive.transfer = s.drive.transfer.map fun x => { x with reports := false } := by
  have hd : (leaveSlots s.thermal.steps s).drive = s.drive := by rw [leaveSlots_frame]
  simp [leaveRunning, assertMutes, keepResults, discardWaiting, hd]

theorem leaveRunning_governor (s : State) :
    (leaveRunning s).governor = { s.governor with state := .idle, run := false } := by
  have hg : (leaveSlots s.thermal.steps s).governor = s.governor := by rw [leaveSlots_frame]
  simp [leaveRunning, assertMutes, keepResults, discardWaiting, hg]

/-! ### RUN written (R170) -/

theorem exec_runWritten1 {s : State} (h : resetHeld s = false) :
    exec .runWritten1 s = .next (writeRun1 (endReading s)) := by
  show Host.Outcome.next (unlessHeld (fun u => writeGctl 1 (endReading u)) s) = _
  rw [unlessHeld_of_free h, writeGctl, if_neg (by decide), if_pos (by decide)]

theorem exec_runWritten0 {s : State} (h : resetHeld s = false) :
    exec .runWritten0 s = .next (writeRun0 (endReading s)) := by
  show Host.Outcome.next (unlessHeld (fun u => writeGctl 0 (endReading u)) s) = _
  rw [unlessHeld_of_free h, writeGctl, if_neg (by decide), if_neg (by decide)]

theorem writeRun_of_init {s : State} (hs : s.governor.state = .init) :
    writeRun1 s = mapGovernor (fun g => { g with run := true }) s ∧
      writeRun0 s = mapGovernor (fun g => { g with run := false }) s := by
  simp only [writeRun1, writeRun0, hs, and_self]

theorem writeRun_of_idle {s : State} (hs : s.governor.state = .idle) :
    writeRun1 s = enterRunning (mapGovernor (fun g => { g with run := true }) s) ∧ writeRun0 s = s := by
  simp only [writeRun1, writeRun0, hs, and_self]

theorem writeRun_of_running {s : State} (hs : s.governor.state = .running) :
    writeRun1 s = s ∧ writeRun0 s = leaveRunning s := by
  simp only [writeRun1, writeRun0, hs, and_self]

theorem writeRun_of_stop {s : State} (hs : s.governor.state = .stopping ∨ s.governor.state = .stopped) :
    writeRun1 s = s ∧ writeRun0 s = s := by
  obtain hs | hs := hs <;> simp only [writeRun1, writeRun0, hs, and_self]

/-- Settles O22: the write by the governor's state, the leaving of RUNNING by its parts. -/
theorem runWritesFollowTheGovernorState : Obligations.RunWritesFollowTheGovernorState := by
  intro s h
  rw [exec_runWritten1 h, exec_runWritten0 h]
  refine ⟨fun hs => ?_, fun hs => ?_, fun hs => ?_, fun hs => ⟨?_, ?_⟩⟩
  · obtain ⟨h1, h0⟩ := writeRun_of_init (s := endReading s) hs
    rw [h1, h0]
    exact ⟨rfl, rfl⟩
  · obtain ⟨h1, h0⟩ := writeRun_of_idle (s := endReading s) hs
    rw [h1, h0]
    exact ⟨rfl, rfl⟩
  · obtain ⟨h1, h0⟩ := writeRun_of_stop (s := endReading s) hs
    rw [h1, h0]
    exact ⟨rfl, rfl⟩
  · rw [(writeRun_of_running (s := endReading s) hs).1]
    rfl
  · have hleft := leaveSlots_left s.thermal.steps (endReading s)
    have hport := leaveSlots_port s.thermal.steps (endReading s)
    have hf := leaveRunning_frame (endReading s)
    refine ⟨leaveRunning (endReading s), by rw [(writeRun_of_running (s := endReading s) hs).2], hleft,
      leaveSlots_watch _ (endReading s), leaveRunning_transfer (endReading s), leaveRunning_record (endReading s),
      leaveRunning_governor (endReading s), leaveSlots_kept s.thermal.steps (endReading s), ?_⟩
    rw [show (leaveRunning (endReading s)).port = (endReading s).port from hport] at hf
    exact hf

/-! ### The causes and the notification line (R176, R184, R185) -/

theorem exec_ncauseClear {s : State} (h : resetHeld s = false) (bits : Half) :
    exec (.ncauseClear bits) s = .next (writeNcause bits (endReading s)) := by
  show Host.Outcome.next (unlessHeld (fun u => writeNcause bits (endReading u)) s) = _
  rw [unlessHeld_of_free h]

theorem exec_stoppedClear {s : State} (h : resetHeld s = false) :
    exec .stoppedClear s = .next (writeNcause 0x20 (endReading s)) := by
  show Host.Outcome.next (unlessHeld (fun u => writeNcause 0x20 (endReading u)) s) = _
  rw [unlessHeld_of_free h]

/-- A write to NCAUSE that does not clear the stop. -/
theorem writeNcause_clears {s : State} {bits : Half} (h : s.governor.state ≠ .stopped ∨ bits.getLsbD 5 = false) :
    writeNcause bits s = clearCauses (bits.setWidth 6) s := by
  unfold writeNcause clearStop
  dsimp only
  split
  · next hb =>
    rw [if_neg]
    exact h.resolve_right fun hf => by rw [hf] at hb; cases hb
  · rfl

theorem writeNcause_ends_stop {s : State} {bits : Half} (h : s.governor.state = .stopped) (hb : bits.getLsbD 5 = true) :
    writeNcause bits s =
      mapGovernor (fun g => { g with state := .idle, run := false }) (clearCauses (bits.setWidth 6) s) := by
  unfold writeNcause clearStop
  dsimp only
  rw [if_pos hb, if_pos (show (clearCauses (bits.setWidth 6) s).governor.state = .stopped from h)]

/-- Some enabled cause is set: a bit of both words is the bit of a cause. -/
theorem exists_cause_of_and_ne_zero (x y : BitVec 6) :
    x &&& y ≠ 0 ↔ ∃ k : Cause, x &&& k.mask ≠ 0 ∧ y &&& k.mask ≠ 0 := by
  have bits : ∀ x y : BitVec 6, x &&& y ≠ 0 ↔ x &&& 1 ≠ 0 ∧ y &&& 1 ≠ 0 ∨ x &&& 2 ≠ 0 ∧ y &&& 2 ≠ 0 ∨
      x &&& 4 ≠ 0 ∧ y &&& 4 ≠ 0 ∨ x &&& 8 ≠ 0 ∧ y &&& 8 ≠ 0 ∨ x &&& 16 ≠ 0 ∧ y &&& 16 ≠ 0 ∨
      x &&& 32 ≠ 0 ∧ y &&& 32 ≠ 0 := by decide +kernel
  rw [bits]
  constructor
  · rintro (h | h | h | h | h | h)
    · exact ⟨.ready, h⟩
    · exact ⟨.cond, h⟩
    · exact ⟨.directive, h⟩
    · exact ⟨.capture, h⟩
    · exact ⟨.miss, h⟩
    · exact ⟨.stopped, h⟩
  · rintro ⟨k, h⟩
    cases k
    · exact .inl h
    · exact .inr (.inl h)
    · exact .inr (.inr (.inl h))
    · exact .inr (.inr (.inr (.inl h)))
    · exact .inr (.inr (.inr (.inr (.inl h))))
    · exact .inr (.inr (.inr (.inr (.inr h))))

/-- Clearing the bit of STOPPED leaves the other five. -/
theorem clear_stopped_bit (x : BitVec 6) : x &&& ~~~((0x20 : Half).setWidth 6) = x &&& 0x1F := by
  revert x
  decide

theorem clear_unset_bit {x : BitVec 6} (h : x &&& 32 = 0) : x &&& 0x1F = x := by
  revert x
  decide

/-- Settles O23: each register row by what its write does. -/
theorem registerWritesAndTheNotifyLine : Obligations.RegisterWritesAndTheNotifyLine := by
  have outside {s : State} (h : resetHeld s = false) (hs : s.governor.state ≠ .stopped) :
      exec .stoppedClear s = .next { s with
        port := { s.port with reading := none, ncause := s.port.ncause &&& 0x1F } } := by
    rw [exec_stoppedClear h, writeNcause_clears (s := endReading s) (.inl hs), ← clear_stopped_bit]
    rfl
  refine ⟨fun s bits h => ⟨fun hs => ?_, fun hs hb => ?_⟩, fun s h hs => ?_, fun s h hs => outside h hs,
    fun s h hs hc => ?_, fun s v h => ?_, fun s r v h => ?_, rfl, fun k s => decide_eq_true_iff, fun s => ?_⟩
  · rw [exec_ncauseClear h, writeNcause_clears (s := endReading s) hs]
    rfl
  · rw [exec_ncauseClear h, writeNcause_ends_stop (s := endReading s) hs hb]
    rfl
  · rw [exec_stoppedClear h, writeNcause_ends_stop (s := endReading s) hs (by decide), ← clear_stopped_bit]
    rfl
  · have hx : s.port.ncause &&& 32 = 0 := by
      rw [Bool.eq_false_iff, ne_eq, causeSet_stopped_iff, not_not] at hc
      exact hc
    rw [outside h hs, clear_unset_bit hx]
  · show Host.Outcome.next (unlessHeld (fun u => writeNmask v (endReading u)) s) = _
    rw [unlessHeld_of_free h]
    rfl
  · show Host.Outcome.next (unlessHeld (fun u => discardWrite r v (endReading u)) s) = _
    rw [unlessHeld_of_free h]
    rfl
  · simp only [notifyAsserted, causeSet, decide_eq_true_iff]
    exact exists_cause_of_and_ne_zero _ _

/-! ### The fault stop (R173 to R175) -/

theorem enterStopping_left (why : StopReason) (stamp : Stamp) (s : State) :
    SlotsLeft stamp s (enterStopping why stamp s) :=
  leaveSlots_left stamp (beginStopping why s)

theorem enterStopping_port (why : StopReason) (stamp : Stamp) (s : State) :
    (enterStopping why stamp s).port = s.port :=
  leaveSlots_port stamp (beginStopping why s)

theorem enterStopping_silenced (why : StopReason) (stamp : Stamp) (s : State) :
    LinkSilenced s (enterStopping why stamp s) := by
  refine ⟨enterStopping_transfer why stamp s, fun c => ?_⟩
  have hs : (leaveSlots stamp (beginStopping why s)).governor.state ≠ .running := by
    rw [leaveSlots_frame]
    exact nofun
  have hd : (leaveSlots stamp (beginStopping why s)).drive = s.drive := by
    rw [leaveSlots_frame]
    rfl
  have := silenced_record hs c
  rw [hd] at this
  exact this

/-- A stop request in IDLE or RUNNING (R173): the entry to STOPPING, and on to STOPPED with nothing in flight. -/
theorem requestStop_stopped {s : State} (why : StopReason) (stamp : Stamp)
    (h : s.governor.state = .idle ∨ s.governor.state = .running) :
    Stopped why stamp s.port.ncause s (requestStop why stamp s) ∧
      (requestStop why stamp s).slot.watch = s.slot.watch ∧
      MemoryKept (CancelledEntry s) s (requestStop why stamp s) := by
  have hg := enterStopping_governor why stamp s
  have hp := enterStopping_port why stamp s
  have hleft := enterStopping_left why stamp s
  have hsilent := enterStopping_silenced why stamp s
  have hcapture := enterStopping_capture why stamp s
  have hwatch : (enterStopping why stamp s).slot.watch = s.slot.watch :=
    leaveSlots_watch stamp (beginStopping why s)
  have hkept : MemoryKept (CancelledEntry s) s (enterStopping why stamp s) :=
    leaveSlots_kept stamp (beginStopping why s)
  have hquiet : ((enterStopping why stamp s).governor.state = .stopping ∧
      allQuiet (enterStopping why stamp s).governor = true) ↔
      (s.drive.transfer.isNone && s.capture.burst.isNone) = true := by
    rw [hg]
    simp [allQuiet]
  rw [requestStop, if_pos h]
  generalize enterStopping why stamp s = u at hg hp hleft hsilent hcapture hwatch hkept hquiet
  by_cases hq : (s.drive.transfer.isNone && s.capture.burst.isNone) = true
  · have he : enterStoppedIfQuiet u = setCause .stopped (mapGovernor (fun g => { g with state := .stopped }) u) :=
      if_pos (hquiet.2 hq)
    rw [he]
    refine ⟨⟨hleft, hsilent, hcapture, ?_, ?_⟩, hwatch, hkept⟩
    · rw [if_pos hq, setCause_governor, mapGovernor_governor, hg]
    · rw [if_pos hq]
      rw [← hp]
      rfl
  · have he : enterStoppedIfQuiet u = u := if_neg fun hc => hq (hquiet.1 hc)
    rw [he]
    refine ⟨⟨hleft, hsilent, hcapture, ?_, ?_⟩, hwatch, hkept⟩
    · rw [if_neg hq, hg]
    · rw [if_neg hq, hp]

/-! ### The transmit watch (R21, R22) -/

theorem anyChainOn_iff (s : State) : anyChainOn s = true ↔ ∃ c, (s.slot.inForce.get c).force.state = .on := by
  simp only [anyChainOn, chainOn, Bool.or_eq_true, decide_eq_true_iff]
  constructor
  · rintro (((h | h) | h) | h)
    · exact ⟨0, h⟩
    · exact ⟨1, h⟩
    · exact ⟨2, h⟩
    · exact ⟨3, h⟩
  · rintro ⟨c, h⟩
    match c with
    | 0 => exact .inl (.inl (.inl h))
    | 1 => exact .inl (.inl (.inr h))
    | 2 => exact .inl (.inr h)
    | 3 => exact .inr h

theorem watchCounts_iff (s : State) : watchCounts s = true ↔
    s.governor.state = .running ∧ (∃ c, (s.slot.inForce.get c).force.state = .on) ∧ s.slot.watch ≠ 0 := by
  simp only [watchCounts, Bool.and_eq_true, decide_eq_true_iff, anyChainOn_iff, and_assoc]

theorem expiryStamp_cases (before : Stamp) : expiryStamp before = before ∨ expiryStamp before = before + 1 := by
  unfold expiryStamp
  split
  · exact .inl rfl
  · exact .inr rfl

/-- The state in which the watch requests the stop: the estimator has stepped, the watch stands at 0. -/
def watchRunOut (s : State) : State :=
  let u := stepEstimator s
  { u with slot := { u.slot with watch := 0 } }

theorem thermalStep_of_expiry {s : State} (hc : watchCounts s = true) (hw : s.slot.watch = 1) :
    thermalStep s = requestStop .slotFlowLost (expiryStamp s.thermal.steps) (watchRunOut s) := by
  have he : watchCounts (stepEstimator s) = true := hc
  have hw' : (stepEstimator s).slot.watch - 1 = 0 := by
    show s.slot.watch - 1 = 0
    omega
  unfold thermalStep stepWatch
  rw [if_pos he]
  simp only [hw', if_true]
  rfl

theorem exec_thermalStep {s : State} (h : resetHeld s = false) : exec .thermalStep s = .next (thermalStep s) :=
  congrArg Host.Outcome.next (unlessHeld_of_free h)

theorem exec_transmitWatchExpiry {s : State} (h : resetHeld s = false) (hw : watchExpires s = true) :
    exec .transmitWatchExpiry s = .next (thermalStep s) := by
  show Host.Outcome.next (if watchExpires s = true then unlessHeld thermalStep s else s) = _
  rw [if_pos hw, unlessHeld_of_free h]

/-- Settles O24: the watch's expiry requests the stop in the state that the estimator's step has left. -/
theorem watchExpiryStopsThePart : Obligations.WatchExpiryStopsThePart := by
  intro s c h hr hon hw
  have hc : watchCounts s = true := (watchCounts_iff s).2 ⟨hr, ⟨c, hon⟩, by omega⟩
  obtain ⟨hstop, hwatch, hkept⟩ :=
    requestStop_stopped (s := watchRunOut s) .slotFlowLost (expiryStamp s.thermal.steps) (.inr hr)
  have hf := requestStop_frame .slotFlowLost (expiryStamp s.thermal.steps) (watchRunOut s)
  have ht := thermalStep_of_expiry hc hw
  refine ⟨thermalStep s, expiryStamp s.thermal.steps, expiryStamp_cases _, exec_thermalStep h,
    exec_transmitWatchExpiry h (by rw [watchExpires, hc, hw]; rfl), ?_⟩
  rw [ht]
  generalize requestStop .slotFlowLost (expiryStamp s.thermal.steps) (watchRunOut s) = t at hstop hwatch hkept hf
  refine ⟨hwatch, hstop, fun x hx => ?_, ?_⟩
  · push Not at hx
    rw [hkept x hx.2]
    exact (putStepMirror_lands _).kept x hx.1
  · rw [hf]
    rfl

end Sys2Proof.Machine
end

section
/-! Thermal steps (R21, R61, R65 to R72) with what stands between them (R63, R72, R76, R78), and the commands that stand for
an inner step of another event (log entries 1 and 4). -/

namespace Sys2Proof.Machine

/-! ### A thermal step -/

/-- A thermal step where the watch does not count, where it counts on, and where it runs out (R21, R22). -/
theorem thermalStep_cases (s : State) :
    (watchCounts s = false ∧ thermalStep s = stepEstimator s) ∨
    (watchCounts s = true ∧ s.slot.watch ≠ 1 ∧
      thermalStep s = { stepEstimator s with slot := { s.slot with watch := s.slot.watch - 1 } }) ∨
    (watchCounts s = true ∧ s.slot.watch = 1 ∧
      thermalStep s = requestStop .slotFlowLost (expiryStamp s.thermal.steps) (watchRunOut s)) := by
  have hc : watchCounts (stepEstimator s) = watchCounts s := rfl
  cases hw : watchCounts s with
  | false =>
    refine .inl ⟨rfl, ?_⟩
    rw [thermalStep, stepWatch, hc, hw]
    rfl
  | true =>
    by_cases h1 : s.slot.watch = 1
    · exact .inr (.inr ⟨rfl, h1, thermalStep_of_expiry hw h1⟩)
    · refine .inr (.inl ⟨rfl, h1, ?_⟩)
      obtain ⟨-, -, h0⟩ := (watchCounts_iff s).1 hw
      rw [thermalStep, stepWatch, hc, hw, if_pos rfl]
      dsimp only
      rw [if_neg]
      · rfl
      · show ¬s.slot.watch - 1 = 0
        omega

/-- The watch after a thermal step. -/
theorem thermalStep_watch (s : State) :
    (thermalStep s).slot.watch = if watchCounts s = true then s.slot.watch - 1 else s.slot.watch := by
  obtain ⟨hc, he⟩ | ⟨hc, -, he⟩ | ⟨hc, h1, he⟩ := thermalStep_cases s
  · rw [he, hc]
    rfl
  · rw [he, if_pos hc]
  · rw [he, if_pos hc, (requestStop_stopped (s := watchRunOut s) _ _ (.inr ((watchCounts_iff s).1 hc).1)).2.1, h1]
    rfl

/-- The header shows the new step counter, whatever the watch does. -/
theorem thermalStep_stepMirror (s : State) : memRead32 (thermalStep s).xm 8 = s.thermal.steps + 1 := by
  have hest : memRead32 (stepEstimator s).xm 8 = s.thermal.steps + 1 := memRead32_memStore_le32 s.xm 8 _
  obtain ⟨-, he⟩ | ⟨-, -, he⟩ | ⟨-, -, he⟩ := thermalStep_cases s
  · rw [he, hest]
  · rw [he]
    exact hest
  · have hk (x : Nat) (hx : x < 16) : memRead (requestStop .slotFlowLost (expiryStamp s.thermal.steps)
        (watchRunOut s)).xm x = memRead (stepEstimator s).xm x :=
      (requestStop_lands _ _ (watchRunOut s)).kept x fun hr => by
        have := outcome_run_bounds _ x hr
        omega
    rw [he, ← hest]
    simp only [memRead32, memRead16]
    rw [hk _ (by omega), hk _ (by omega), hk _ (by omega), hk _ (by omega)]

/-- A thermal step without the watch's expiry touches nothing but the estimator and the watch. -/
theorem thermalStep_kept {s : State} (h : watchCounts s = false ∨ s.slot.watch ≠ 1) :
    MemoryKept (InRun 8 4) s (thermalStep s) ∧
      thermalStep s = { s with
        thermal := (thermalStep s).thermal
        slot := { s.slot with watch := (thermalStep s).slot.watch }
        xm := (thermalStep s).xm } := by
  have hk : MemoryKept (InRun 8 4) s (stepEstimator s) := (putStepMirror_lands _).kept
  obtain ⟨-, he⟩ | ⟨-, -, he⟩ | ⟨hc, h1, -⟩ := thermalStep_cases s
  · rw [he]
    exact ⟨hk, rfl⟩
  · rw [he]
    exact ⟨hk, rfl⟩
  · obtain h | h := h
    · rw [h] at hc
      cases hc
    · exact absurd h1 h

theorem substitutes_iff (s : State) (c : Chain) :
    substitutes s c = true ↔ s.sensors.valid = false ∨ (condState s (chainEntry c 3)).acting = true ∨
      s.sensors.readings[c.val].implausible = true := by
  simp only [substitutes, Bool.or_eq_true, Bool.not_eq_true', or_assoc]

/-- Settles O27: the records by the estimator's step, the watch and the frame by the three cases of the watch. -/
theorem thermalStepFormsTheRecords : Obligations.ThermalStepFormsTheRecords := by
  intro s h
  refine ⟨thermalStep s, exec_thermalStep h, by rw [thermalStep_thermal], thermalStep_stepMirror s, fun c => ?_,
    fun hr hon => ?_, fun hn => ?_, fun hn => ?_⟩
  · rw [thermalStep_record]
    refine ⟨rfl, rfl, rfl, fun ha => ?_, fun a ha => ?_, fun hb => ?_, fun hb => ?_, rfl⟩
    · simp only [stepChain, ha, movedRise]
    · simp only [stepChain, ha, movedRise]
      exact Int.toNat_of_nonneg (by unfold clamp; split_ifs <;> omega)
    · have hs := (substitutes_iff s c).2 hb
      simp only [stepChain, moduleTemperature, hs, if_true, and_self]
    · have hs : substitutes s c = false := Bool.eq_false_iff.2 fun hs => hb ((substitutes_iff s c).1 hs)
      simp only [stepChain, moduleTemperature, hs, Bool.false_eq_true, if_false, and_self]
  · rw [thermalStep_watch]
    split
    · rfl
    · next hc =>
      by_contra hw
      exact hc ((watchCounts_iff s).2 ⟨hr, hon, fun h0 => hw (by omega)⟩)
  · rw [thermalStep_watch, if_neg]
    intro hc
    obtain ⟨hr, ⟨c, hon⟩, -⟩ := (watchCounts_iff s).1 hc
    exact hn.elim (fun hn => hn hr) fun hn => hn c hon
  · refine thermalStep_kept ?_
    by_cases hc : watchCounts s = true
    · obtain ⟨hr, ⟨c, hon⟩, -⟩ := (watchCounts_iff s).1 hc
      exact .inr ((hn.resolve_left fun hn => hn hr).resolve_left fun hn => hn c hon)
    · exact .inl (Bool.eq_false_of_not_eq_true hc)

/-! ### Between steps (R63, R72, R76, R78) -/

theorem activate_record (s : State) (c : Chain) :
    (activate s).thermal.chains.get c = chargeChain (multiplier s.slot.lengthCode)
      ((activate s).slot.inForce.get c) (s.thermal.chains.get c) := by
  rw [activate_thermal, PerChain.get_mapIdx]

/-- A charge touches the accumulator and the association alone, and no association is lost. -/
theorem chargeChain_kept (m : Nat) (f : InForce) (t : ThermalRecord) :
    (chargeChain m f t).rise = t.rise ∧ (chargeChain m f t).power = t.power ∧
      (t.assoc.isSome = true → (chargeChain m f t).assoc.isSome = true) := by
  unfold chargeChain
  split
  · exact ⟨rfl, rfl, fun _ => rfl⟩
  · exact ⟨rfl, rfl, id⟩
  · exact ⟨rfl, rfl, id⟩

/-- Settles O31: the estimator by induction over the events, its movers excluded as each part says. -/
theorem estimateStandsBetweenItsEvents : Obligations.EstimateStandsBetweenItsEvents := by
  refine ⟨fun i s t he ht ha hp hw => ?_, fun i s t he ht hp => ?_, fun i s t he hp c hs => ?_⟩
  · have k : KeptByEvents (fun x => raises i x = true) fun u => u.thermal = s.thermal :=
      keptByEvents_of_thermal (fun u v h hu => h.trans hu) (fun h => by simp [hp] at h) (fun h => by simp [hw] at h)
        (fun h => by simp [ha] at h) (fun h => by simp [ht] at h)
    exact k.command (fun _ h => h) rfl he
  · have k : KeptByEvents (fun x => raises i x = true) fun u => ∀ c,
        (u.thermal.chains.get c).rise = (s.thermal.chains.get c).rise ∧
          (u.thermal.chains.get c).power = (s.thermal.chains.get c).power :=
      keptByEvents_of_thermal (fun u v h hu => h ▸ hu) (fun h => by simp [hp] at h)
        (fun _ u hu c => by rw [(warmReset_chain u c).2.1]; exact hu c)
        (fun _ u hu c => by
          obtain ⟨hrise, hpower, -⟩ := chargeChain_kept (multiplier u.slot.lengthCode)
            ((activate u).slot.inForce.get c) (u.thermal.chains.get c)
          rw [activate_record, hrise, hpower]
          exact hu c)
        (fun h => by simp [ht] at h)
    exact k.command (fun _ h => h) (fun _ => ⟨rfl, rfl⟩) he
  · have k : KeptByEvents (fun x => raises i x = true) fun u => (u.thermal.chains.get c).assoc.isSome = true :=
      keptByEvents_of_thermal (fun u v h hu => by rwa [h]) (fun h => by simp [hp] at h)
        (fun _ u hu => by rwa [(warmReset_chain u c).2.1])
        (fun _ u hu => by rw [activate_record]; exact (chargeChain_kept _ _ _).2.2 hu)
        (fun _ u hu => by
          show ((u.thermal.chains.mapIdx (stepChain u)).get c).assoc.isSome = true
          rwa [PerChain.get_mapIdx])
    exact k.command (fun _ h => h) hs he

/-! ### Commands of inner steps (log entries 1 and 4) -/

/-- An inner step's command against its enclosing event's next state: where that is another state, the test of the command
has to be the condition under which the event brings the step about. -/
theorem innerStep_eq {b : Bool} {p : Prop} [Decidable p] {s t : State} (h : t = s ∨ (b = true ↔ p)) :
    (Host.Outcome.next (if b = true then t else s) : Host.Outcome State Fault Refusal) =
      if p then .next t else .next s := by
  obtain rfl | h := h
  · rw [ite_self, ite_self]
  · by_cases hp : p
    · rw [if_pos hp, if_pos (h.2 hp)]
    · rw [if_neg hp, if_neg fun hb => hp (h.1 hb)]

theorem settleMutes_cut (s : State) (c : Chain) :
    ((settleMutes s).drive.chains.get c).cut = (s.drive.chains.get c).cut := by
  simp only [settleMutes, mapDrive_drive, PerChain.get_mapIdx]

theorem activate_cut (s : State) (c : Chain) :
    ((activate s).drive.chains.get c).cut =
      if s.slot.prepared.isSome = true then (countResult (s.drive.chains.get c)).cut else (s.drive.chains.get c).cut := by
  have hend (o : SlotOutcome) (u : State) :
      ((settleMutes (advanceSlot (writeOutcome o u))).drive.chains.get c).cut = (u.drive.chains.get c).cut := by
    have hd : (advanceSlot (writeOutcome o u)).drive = u.drive := by
      rw [show (advanceSlot (writeOutcome o u)).drive = (writeOutcome o u).drive from rfl, writeOutcome_frame]
    rw [settleMutes_cut, hd]
  unfold activate
  split
  · next p hp =>
    rw [hp, if_pos (Option.isSome_some), activatePrepared, hend]
    exact congrArg DriveRecord.cut (PerChain.get_mapIdx _ _ _)
  · next hp =>
    rw [hp, if_neg (by simp), activateOrphan, hend]
    rfl

theorem wouldCut_iff (s : State) (c : Chain) : wouldCut s c = true ↔
    (s.drive.chains.get c).cut = false ∧ ((activate s).drive.chains.get c).cut = true := by
  rw [activate_cut, wouldCut]
  cases s.slot.prepared.isSome <;> cases (s.drive.chains.get c).cut <;> simp

theorem wouldClearCut_iff (s : State) (c : Chain) : wouldClearCut s c = true ↔
    (s.drive.chains.get c).cut = true ∧ ((activate s).drive.chains.get c).cut = false := by
  rw [activate_cut, wouldClearCut]
  cases s.slot.prepared.isSome <;> cases (s.drive.chains.get c).cut <;> simp

theorem watchExpires_iff (s : State) :
    watchExpires s = true ↔ s.slot.watch ≠ 0 ∧ (thermalStep s).slot.watch = 0 := by
  rw [watchExpires, thermalStep_watch, Bool.and_eq_true, decide_eq_true_iff]
  constructor
  · rintro ⟨hc, h1⟩
    rw [if_pos hc]
    omega
  · rintro ⟨h0, hw⟩
    split at hw
    · next hc => exact ⟨hc, by omega⟩
    · exact absurd hw h0

theorem evaluate_condState_entries (s : State) (id : Fin 19) :
    condState (evaluate s) id = (evaluatedEntries s)[id].state := by
  rw [evaluate_condState, condState, evaluateTable_entries]

theorem tripsTo_iff (old new : CondState) :
    tripsTo old new = true ↔ new ≠ old ∧ (new = .tripped ∨ new = .latched) := by
  simp only [tripsTo, Bool.and_eq_true, Bool.or_eq_true, decide_eq_true_iff, ne_comm]

theorem acting_iff (x : CondState) : x.acting = true ↔ x = .tripped ∨ x = .holdoff := by
  cases x <;> simp [CondState.acting]

theorem clearsFrom_iff (old new : CondState) :
    clearsFrom old new = true ↔ new = .clear ∧ (old = .tripped ∨ old = .holdoff ∨ old = .latched) := by
  simp only [clearsFrom, Bool.and_eq_true, Bool.or_eq_true, decide_eq_true_iff, acting_iff, or_assoc]

theorem scanCompleted_of_settling {s : State} (h : s.sensors.mode = .settling) (raw : Vector (BitVec 12) 11) :
    scanCompleted raw s = if s.sensors.settleCount = 0 then endSettling raw s
      else mapSensors (fun u => { u with settleCount := u.settleCount - 1 }) s := by
  simp only [scanCompleted, h]

theorem countScan_sensors_mode (s : State) : (countScan s).sensors = s.sensors := by rw [countScan_frame]

theorem settlingEnds_iff (s : State) (raw : Vector (BitVec 12) 11) :
    settlingEnds s = true ↔ s.sensors.mode = .settling ∧ (scanCompleted raw s).sensors.mode = .scanning := by
  rw [settlingEnds, Bool.and_eq_true, decide_eq_true_iff, decide_eq_true_iff]
  refine and_congr_right fun h => ?_
  rw [scanCompleted_of_settling h]
  split
  · next h0 =>
    refine ⟨fun _ => ?_, fun _ => h0⟩
    unfold endSettling publishScan
    rw [countScan_sensors_mode]
    rfl
  · next h0 =>
    refine ⟨fun hc => absurd hc h0, fun hm => ?_⟩
    rw [mapSensors_sensors, h] at hm
    cases hm

/-- In INIT, where the unit scans, a scan completion is the third exactly where it leaves INIT (R169). -/
theorem initEnds_iff {s : State} (h : HoldLaw s) (raw : Vector (BitVec 12) 11) :
    initEnds s = true ↔ s.governor.state = .init ∧ (scanCompleted raw s).governor.state ≠ .init := by
  simp only [initEnds, Bool.and_eq_true, decide_eq_true_iff, and_assoc]
  refine and_congr_right fun hi => ?_
  have hm := (h.2.2 hi).1
  have hleave (u : State) : (leaveInit u).governor.state ≠ .init := by
    unfold leaveInit
    dsimp only
    split <;> exact nofun
  rw [scanCompleted, hm, publishScan, countScan]
  dsimp only
  rw [if_pos (by exact hi)]
  split
  · next h3 =>
    have : s.governor.initScans + 1 = 3 := h3
    exact ⟨fun _ => hleave _, fun _ => ⟨by omega, rfl⟩⟩
  · next h3 =>
    have : ¬s.governor.initScans + 1 = 3 := h3
    exact ⟨fun h2 => absurd h2.1 (by omega), fun hn => absurd hi hn⟩

theorem captureStopWaits_mapCapture (f : CaptureUnit → CaptureUnit) (s : State) :
    captureStopWaits (mapCapture f s) = captureStopWaits s := rfl

theorem prepareBurst_burst (s : State) :
    (prepareBurst s).capture.burst =
      if (captureStopWaits s || s.capture.burst.isSome) = true then s.capture.burst
      else some (s.capture.sources.map (sample s)) := by
  unfold prepareBurst
  split <;> rfl

theorem captureStep_false (s : State) : captureStep false s =
    if s.capture.on = true ∧ s.governor.state ≠ .stopping then
      countCapture (mapCapture (fun u => { u with startFresh := false }) s)
    else mapCapture (fun u => { u with startFresh := false }) s := rfl

theorem countCapture_burst (s : State) : (countCapture s).capture.burst =
    if s.capture.count ≤ 1 then (prepareBurst s).capture.burst else s.capture.burst := by
  unfold countCapture
  split <;> rfl

theorem burstDue_iff (s : State) :
    burstDue s = true ↔ s.capture.burst = none ∧ (captureStep false s).capture.burst ≠ none := by
  rw [captureStep_false]
  simp only [burstDue, Bool.and_eq_true, decide_eq_true_iff, Bool.not_eq_true', Option.isNone_iff_eq_none]
  by_cases hon : s.capture.on = true ∧ s.governor.state ≠ .stopping
  · rw [if_pos hon, countCapture_burst, prepareBurst_burst, captureStopWaits_mapCapture]
    generalize sample _ = f
    simp only [mapCapture_capture]
    by_cases hb : s.capture.burst = none
    · by_cases hc : s.capture.count ≤ 1 <;> by_cases hw : captureStopWaits s = true <;> simp [hon, hb, hc, hw]
    · exact ⟨fun h => absurd h.2 hb, fun h => absurd h.1 hb⟩
  · rw [if_neg hon]
    exact ⟨fun h => absurd h.1.1.1 hon, fun h => absurd h.1 h.2⟩

/-- A directive's completion is due: it is active with a timer of at most 1. -/
theorem completesNow_iff (p : ActiveKind → Bool) (s : State) : completesNow p s = true ↔
    ∃ a n, s.directives.active = some a ∧ a.timer = some n ∧ p a.kind = true ∧ n ≤ 1 := by
  unfold completesNow
  cases ha : s.directives.active with
  | none => simp
  | some a => cases ht : a.timer with
    | none => simp [ht]
    | some n => simp [ht]

theorem wouldTrip_iff (s : State) (entry : Fin 19) : wouldTrip s entry = true ↔
    condState (evaluate s) entry ≠ condState s entry ∧
      (condState (evaluate s) entry = .tripped ∨ condState (evaluate s) entry = .latched) := by
  rw [evaluate_condState_entries, ← tripsTo_iff]
  rfl

theorem wouldClear_iff (s : State) (entry : Fin 19) : wouldClear s entry = true ↔
    condState (evaluate s) entry = .clear ∧
      (condState s entry = .tripped ∨ condState s entry = .holdoff ∨ condState s entry = .latched) := by
  rw [evaluate_condState_entries, ← clearsFrom_iff]
  rfl

/-- The test of an inner step's command, decided on the event's next state, under a held reset or not. -/
theorem unlessHeld_test {b : Bool} {p : State → Prop} {f : State → State} {s : State} (h : b = true ↔ p (f s)) :
    unlessHeld f s = s ∨ (b = true ↔ p (unlessHeld f s)) := by
  obtain he | he := unlessHeld_cases f s
  · exact .inl he
  · exact .inr (by rwa [he])

/-- A completion whose directive reads no measurement is the step event of any (log entry 1). -/
theorem directiveStep_of_completion {s : State} {kind : ActiveKind} {n : Nat} {k : Bool}
    (ha : s.directives.active = some ⟨kind, some n, k⟩) (hm : ∀ m m', stepMeasurement kind m s = stepMeasurement kind m' s)
    (m m' : Measurement) : directiveStep m s = directiveStep m' s := by
  simp only [directiveStep, ha, hm m m']

theorem completesNow_of_active {p : ActiveKind → Bool} {s : State} {kind : ActiveKind} {n : Nat} {k : Bool}
    (ha : s.directives.active = some ⟨kind, some n, k⟩) (hp : p kind = true) (hn : n ≤ 1) : completesNow p s = true :=
  (completesNow_iff p s).2 ⟨_, n, ha, rfl, hp, hn⟩

/-- Without a directive of its sort at its last step, a completion's command does nothing. -/
theorem completion_idle {p : ActiveKind → Bool} {s : State} (x : State)
    (h : ∀ kind n k, s.directives.active = some ⟨kind, some n, k⟩ → p kind = true → ¬n ≤ 1) :
    (Host.Outcome.next (if completesNow p s = true then x else s) : Host.Outcome State Fault Refusal) = .next s := by
  rw [if_neg]
  intro hc
  obtain ⟨⟨kind, timer, k⟩, n, ha, rfl, hp, hn⟩ := (completesNow_iff p s).1 hc
  exact h kind n k ha hp hn

/-- Settles O21: each command tests exactly what its event brings about; the completions are the step event itself. -/
theorem innerStepsAreTheirEnclosingEvents : Obligations.InnerStepsAreTheirEnclosingEvents := by
  refine ⟨fun s t c he => ?_, fun s t he => ?_, fun s t entry he => ?_, fun s t raw hl he => ?_, fun s t he => ?_,
    fun s m ⟨j, n, k, ha, hn⟩ => ?_, fun s m ⟨j, n, k, ha, hn⟩ => ?_, fun s m ⟨n, k, ha, hn⟩ => ?_,
    fun s m ⟨n, k, ha, hn⟩ => ?_, fun s h => ?_, fun s h => ?_, fun s m h => ?_, fun s m h => ?_, fun s ack h => ?_,
    fun s h => ?_, fun s raw h => ?_⟩
  · obtain rfl := Host.Outcome.next.inj he
    refine ⟨innerStep_eq ?_, innerStep_eq ?_⟩
    · obtain ha | ha := activation_cases s
      · exact .inl ha
      · exact .inr (by rw [ha]; exact wouldCut_iff s c)
    · obtain ha | ha := activation_cases s
      · exact .inl ha
      · exact .inr (by rw [ha]; exact wouldClearCut_iff s c)
  · obtain rfl := Host.Outcome.next.inj he
    exact innerStep_eq (unlessHeld_test (p := fun t => s.slot.watch ≠ 0 ∧ t.slot.watch = 0) (watchExpires_iff s))
  · obtain rfl := Host.Outcome.next.inj he
    exact ⟨innerStep_eq (unlessHeld_test (p := fun t => condState t entry ≠ condState s entry ∧
        (condState t entry = .tripped ∨ condState t entry = .latched)) (wouldTrip_iff s entry)),
      innerStep_eq (unlessHeld_test (p := fun t => condState t entry = .clear ∧ (condState s entry = .tripped ∨
        condState s entry = .holdoff ∨ condState s entry = .latched)) (wouldClear_iff s entry))⟩
  · obtain rfl := Host.Outcome.next.inj he
    exact ⟨innerStep_eq (unlessHeld_test (p := fun t => s.sensors.mode = .settling ∧ t.sensors.mode = .scanning)
        (settlingEnds_iff s raw)),
      innerStep_eq (unlessHeld_test (p := fun t => s.governor.state = .init ∧ t.governor.state ≠ .init)
        (initEnds_iff hl raw))⟩
  · obtain rfl := Host.Outcome.next.inj he
    exact innerStep_eq (unlessHeld_test (p := fun t => s.capture.burst = none ∧ t.capture.burst ≠ none) (burstDue_iff s))
  · show Host.Outcome.next (if completesNow _ s = true then _ else s) = _
    rw [if_pos (completesNow_of_active ha (by rfl) hn)]
    show _ = Host.Outcome.next (unlessHeld (directiveStep m) s)
    simp only [unlessHeld, directiveStep_of_completion ha (fun _ _ => rfl) noMeasurement m]
  · show Host.Outcome.next (if completesNow _ s = true then _ else s) = _
    rw [if_pos (completesNow_of_active ha (by rfl) hn)]
    show _ = Host.Outcome.next (unlessHeld (directiveStep m) s)
    simp only [unlessHeld, directiveStep_of_completion ha (fun _ _ => rfl) noMeasurement m]
  · show Host.Outcome.next (if completesNow _ s = true then _ else s) = _
    rw [if_pos (completesNow_of_active ha (by rfl) hn)]
    rfl
  · show Host.Outcome.next (if completesNow _ s = true then _ else s) = _
    rw [if_pos (completesNow_of_active ha (by rfl) hn)]
    rfl
  · refine completion_idle _ fun kind n k ha hp hn => ?_
    cases kind <;> cases hp
    exact h ⟨_, n, k, ha, hn⟩
  · refine completion_idle _ fun kind n k ha hp hn => ?_
    cases kind <;> cases hp
    exact h ⟨_, n, k, ha, hn⟩
  · refine completion_idle _ fun kind n k ha hp hn => ?_
    cases of_decide_eq_true hp
    exact h ⟨n, k, ha, hn⟩
  · refine completion_idle _ fun kind n k ha hp hn => ?_
    cases of_decide_eq_true hp
    exact h ⟨n, k, ha, hn⟩
  · show Host.Outcome.next (unlessHeld (transferCompleted ack) s) = _
    simp only [unlessHeld, transferCompleted, h, Option.isNone_none, if_true, ite_self]
  · show Host.Outcome.next (unlessHeld burstCompleted s) = _
    simp only [unlessHeld, burstCompleted, h, ite_self]
  · show Host.Outcome.next (unlessHeld (scanCompleted raw) s) = _
    obtain h | h := h <;> simp only [unlessHeld, scanCompleted, h, ite_self]

end Sys2Proof.Machine
end

section
/-! The evaluation of the condition table (sections 6.2 to 6.6): how one entry moves, on which side it is found, and what the
evaluation of all of them does. -/

namespace Sys2Proof.Machine

/-! ### The state machine (R97 to R103) -/

theorem trippedEntry_eq (id : Fin 19) (e : CondEntry) : trippedEntry id e =
    { e with state := if id.val < 16 ∧ id.val % 4 = 2 then .latched else .tripped, elapsed := 0 } := by
  simp only [trippedEntry, latches, ← Bool.decide_and, decide_eq_true_iff]

theorem evaluateEntry_of_enabled (id : Fin 19) {e : CondEntry} (side : Side) (hl : e.state ≠ .latched) (hd : e.dwell ≠ 0) :
    evaluateEntry id e (some side) = moveEntry id e side := by
  simp only [evaluateEntry, if_neg hl, if_neg hd]

theorem moveEntry_of_clear (id : Fin 19) {e : CondEntry} (h : e.state = .clear) :
    moveEntry id e .trip = (if e.dwell ≤ 1 then trippedEntry id e else { e with state := .alert, elapsed := 1 }) ∧
      ∀ x, x ≠ .trip → moveEntry id e x = clearedEntry e := by
  refine ⟨by simp only [moveEntry, h], fun x hx => ?_⟩
  cases x <;> simp_all only [moveEntry, ne_eq, not_true]

theorem moveEntry_of_alert (id : Fin 19) {e : CondEntry} (h : e.state = .alert) :
    moveEntry id e .trip = (if e.dwell ≤ min 65535 (e.elapsed + 1) then trippedEntry id e
        else { e with elapsed := min 65535 (e.elapsed + 1) }) ∧
      ∀ x, x ≠ .trip → moveEntry id e x = clearedEntry e := by
  refine ⟨by simp only [moveEntry, h], fun x hx => ?_⟩
  cases x <;> simp_all only [moveEntry, ne_eq, not_true]

theorem moveEntry_of_tripped (id : Fin 19) {e : CondEntry} (h : e.state = .tripped) :
    moveEntry id e .recovery = (if e.hold ≤ 1 then clearedEntry e else { e with state := .holdoff, elapsed := 1 }) ∧
      ∀ x, x ≠ .recovery → moveEntry id e x = { e with elapsed := 0 } := by
  refine ⟨by simp only [moveEntry, h], fun x hx => ?_⟩
  cases x <;> simp_all only [moveEntry, ne_eq, not_true]

theorem moveEntry_of_holdoff (id : Fin 19) {e : CondEntry} (h : e.state = .holdoff) :
    moveEntry id e .recovery = (if e.hold ≤ min 65535 (e.elapsed + 1) then clearedEntry e
        else { e with elapsed := min 65535 (e.elapsed + 1) }) ∧
      ∀ x, x ≠ .recovery → moveEntry id e x = { e with state := .tripped, elapsed := 0 } := by
  refine ⟨by simp only [moveEntry, h], fun x hx => ?_⟩
  cases x <;> simp_all only [moveEntry, ne_eq, not_true]

theorem exec_conditionEvaluation {s : State} (h : resetHeld s = false) :
    exec .conditionEvaluation s = .next (evaluate s) := by
  show Host.Outcome.next (unlessHeld evaluate s) = _
  rw [unlessHeld_of_free h]

theorem evaluate_supervisor (s : State) : (evaluate s).supervisor = (evaluateTable s).supervisor := by
  unfold evaluate
  dsimp only
  split
  · rw [requestStop_frame]
  · rfl

theorem evaluate_entry (s : State) (id : Fin 19) : (evaluate s).supervisor.entries[id] =
    evaluateEntry id s.supervisor.entries[id] (entrySide s id s.supervisor.entries[id]) := by
  rw [evaluate_supervisor, evaluateTable_entries, evaluatedEntries, vmapIdx_get]

/-- Settles O33: the whole table moves entry by entry, and an entry by the state it stands in. -/
theorem entriesFollowTheStateMachine : Obligations.EntriesFollowTheStateMachine := by
  refine ⟨fun s t h he id => ?_, fun id e => ?_⟩
  · rw [exec_conditionEvaluation h] at he
    obtain rfl := Host.Outcome.next.inj he
    exact evaluate_entry s id
  · dsimp only
    rw [← trippedEntry_eq]
    refine ⟨rfl, fun x h => if_pos h, fun x hl hd => ?_, fun hd => ⟨fun h => ?_, fun h => ?_, fun h => ?_, fun h => ?_⟩⟩
    · simp only [evaluateEntry, if_neg hl, if_pos hd]
      rfl
    all_goals simp only [evaluateEntry_of_enabled id _ (by rw [h]; exact nofun) hd]
    · obtain ⟨htrip, hback⟩ := moveEntry_of_clear id h
      refine ⟨?_, hback⟩
      rw [htrip]
      by_cases h1 : e.dwell = 1
      · rw [if_pos h1, if_pos (by omega)]
      · rw [if_neg h1, if_neg (by omega)]
    · exact moveEntry_of_alert id h
    · exact moveEntry_of_tripped id h
    · exact moveEntry_of_holdoff id h

/-! ### Sides (R94, R97) -/

theorem entryChain_chainEntry (c k : Fin 4) : entryChain (chainEntry c k) = c := by
  apply Fin.ext
  simp only [entryChain, chainEntry]
  omega

theorem sensorsBlind_iff (s : State) : sensorsBlind s = true ↔ s.sensors.valid = false ∨ s.sensors.held = true := by
  simp only [sensorsBlind, Bool.or_eq_true, Bool.not_eq_true']

theorem unlessBlind_blind {s : State} (side : Side) (h : s.sensors.valid = false ∨ s.sensors.held = true) :
    unlessBlind s side = none :=
  if_pos ((sensorsBlind_iff s).2 h)

theorem unlessBlind_fresh {s : State} (side : Side) (h : ¬(s.sensors.valid = false ∨ s.sensors.held = true)) :
    unlessBlind s side = some side :=
  if_neg fun hb => h ((sensorsBlind_iff s).1 hb)

/-- The four entries of a chain, by their kind. -/
theorem entrySide_chain (s : State) (c : Chain) (e : CondEntry) :
    entrySide s (chainEntry c 0) e = some (risingSide e (s.thermal.chains.get c).tj) ∧
    entrySide s (chainEntry c 1) e = (if s.sensors.readings[c.val].implausible then none
      else unlessBlind s (risingSide e s.sensors.readings[c.val].value)) ∧
    entrySide s (chainEntry c 2) e = unlessBlind s (stuckSide s c e) ∧
    entrySide s (chainEntry c 3) e = unlessBlind s (openSide s.sensors.readings[c.val]) := by
  have hk (k : Fin 4) : (chainEntry c k).val ≠ 16 ∧ (chainEntry c k).val ≠ 17 ∧ (chainEntry c k).val ≠ 18 ∧
      (chainEntry c k).val % 4 = k.val := by
    rw [show (chainEntry c k).val = 4 * c.val + k.val from rfl]
    omega
  refine ⟨?_, ?_, ?_, ?_⟩
  · obtain ⟨h16, h17, h18, hm⟩ := hk 0
    simp only [entrySide, if_neg h16, if_neg h17, if_neg h18, hm, entryChain_chainEntry]
    rfl
  · obtain ⟨h16, h17, h18, hm⟩ := hk 1
    simp only [entrySide, if_neg h16, if_neg h17, if_neg h18, hm, entryChain_chainEntry]
    rfl
  · obtain ⟨h16, h17, h18, hm⟩ := hk 2
    simp only [entrySide, if_neg h16, if_neg h17, if_neg h18, hm, entryChain_chainEntry]
    rfl
  · obtain ⟨h16, h17, h18, hm⟩ := hk 3
    simp only [entrySide, if_neg h16, if_neg h17, if_neg h18, hm, entryChain_chainEntry]
    rfl

theorem stuckSide_trip_iff (s : State) (c : Chain) (e : CondEntry) : stuckSide s c e = .trip ↔
    (s.slot.inForce.get c).force.state ≠ .on ∧ e.trip ≤ s.sensors.readings[7 + c.val].corrected := by
  unfold stuckSide
  split
  · next h =>
    simp only [Bool.and_eq_true, Bool.not_eq_true', decide_eq_true_iff, chainOn, decide_eq_false_iff_not] at h
    exact ⟨fun _ => h, fun _ => rfl⟩
  · next h =>
    simp only [Bool.and_eq_true, Bool.not_eq_true', decide_eq_true_iff, chainOn, decide_eq_false_iff_not] at h
    exact ⟨nofun, fun hc => absurd hc h⟩

theorem stuckSide_cases (s : State) (c : Chain) (e : CondEntry) : stuckSide s c e = .trip ∨ stuckSide s c e = .band := by
  unfold stuckSide
  split
  · exact .inl rfl
  · exact .inr rfl

/-- Settles O34: by the definition of an entry's side, with the table fresh or not. -/
theorem sidesAndSkippedEntries : Obligations.SidesAndSkippedEntries := by
  intro s
  dsimp only
  refine ⟨fun c => ?_, ⟨fun hb => ⟨?_, ?_, ?_⟩, fun hb => ⟨?_, ?_, ?_⟩⟩⟩
  · obtain ⟨h0, -, -, -⟩ := entrySide_chain s c s.supervisor.entries[chainEntry c 0]
    obtain ⟨-, h1, -, -⟩ := entrySide_chain s c s.supervisor.entries[chainEntry c 1]
    obtain ⟨-, -, h2, -⟩ := entrySide_chain s c s.supervisor.entries[chainEntry c 2]
    obtain ⟨-, -, -, h3⟩ := entrySide_chain s c s.supervisor.entries[chainEntry c 3]
    rw [h0, h1, h2, h3]
    refine ⟨rfl, fun hb => ?_, fun hb => ?_⟩
    · simp only [unlessBlind_blind _ hb, ite_self, and_self]
    · simp only [unlessBlind_fresh _ hb, Option.some.injEq, stuckSide_trip_iff]
      refine ⟨rfl, ⟨trivial, fun hn => ?_⟩, rfl⟩
      exact (stuckSide_cases s c _).resolve_left fun ht => hn (congrArg some ht)
  · show (if s.sensors.readings[4].implausible then none else unlessBlind s _) = none
    rw [unlessBlind_blind _ hb, ite_self]
  · exact unlessBlind_blind _ hb
  · exact unlessBlind_blind _ hb
  · show (if s.sensors.readings[4].implausible then none else unlessBlind s _) = _
    rw [unlessBlind_fresh _ hb]
    rfl
  · exact unlessBlind_fresh _ hb
  · exact unlessBlind_fresh _ hb

/-! ### The evaluation of the table before its cut requests -/

/-- The table moved and its latches recorded; the cut requests are still to follow. -/
def movedTable (s : State) : State :=
  recordLatches s (withEntries (evaluatedEntries s) (forgetCuts s))

theorem evaluateTable_eq (s : State) : evaluateTable s =
    setCauseIf (anyNoticed s.supervisor.entries (evaluatedEntries s)) .cond (syncCuts (movedTable s)) := rfl

theorem movedTable_frame (s : State) : movedTable s = { s with
    slot := { s.slot with justCut := .fill false }, supervisor := (movedTable s).supervisor, xm := (movedTable s).xm } := by
  unfold movedTable
  rw [recordLatches_frame]
  rfl

theorem evaluateTable_condState_eq (s : State) (id : Fin 19) :
    condState (evaluateTable s) id = (evaluatedEntries s)[id].state := by
  rw [condState, evaluateTable_entries]

/-- The cut requests after an evaluation are those that the entries call for (R107). -/
theorem evaluateTable_request (s : State) (c : Chain) : (evaluateTable s).supervisor.cutRequest.get c =
    ((condState (evaluateTable s) (chainEntry c 0)).acting ||
      decide (condState (evaluateTable s) (chainEntry c 2) = .latched)) := by
  rw [evaluateTable_cutRequest, PerChain.get_ofFn, evaluateTable_condState_eq, evaluateTable_condState_eq]
  rfl

/-- A chain's request rises at the evaluation. -/
theorem cutRises_movedTable (s : State) (c : Chain) : cutRises (movedTable s) c =
    ((evaluateTable s).supervisor.cutRequest.get c && !s.supervisor.cutRequest.get c) := by
  rw [evaluateTable_cutRequest, PerChain.get_ofFn, cutRises, movedTable, recordLatches_entries, recordLatches_cutRequest]
  rfl

theorem cutRises_movedTable_iff (s : State) (c : Chain) : cutRises (movedTable s) c = false ↔
    (evaluateTable s).supervisor.cutRequest.get c = false ∨ s.supervisor.cutRequest.get c = true := by
  rw [cutRises_movedTable, Bool.and_eq_false_iff, Bool.not_eq_false']

/-- The reason of a request that an evaluation raises. -/
theorem cutReason_movedTable (s : State) (c : Chain) : cutReason (movedTable s) c =
    if condState (evaluateTable s) (chainEntry c 2) = .latched ∧
      (!(condState (evaluateTable s) (chainEntry c 0)).acting || Config.latchRaisesFirst s.thermal.steps c) then .lock
    else .cut := by
  have he (id : Fin 19) : condState (movedTable s) id = condState (evaluateTable s) id := by
    rw [evaluateTable_condState_eq, condState, movedTable, recordLatches_entries]
    rfl
  rw [cutReason, he, he, movedTable_frame]

/-! ### What the evaluation does to each block -/

theorem evaluateTable_slot_eq (s : State) : (evaluateTable s).slot = (syncCuts (movedTable s)).slot := by
  rw [evaluateTable_eq, setCauseIf_frame]

theorem movedTable_slot (s : State) : (movedTable s).slot = { s.slot with justCut := .fill false } := by
  rw [movedTable_frame]

theorem evaluateTable_slot (s : State) : (evaluateTable s).slot = { s.slot with
    inForce := (evaluateTable s).slot.inForce, prepared := (evaluateTable s).slot.prepared
    justCut := (evaluateTable s).slot.justCut } := by
  rw [evaluateTable_slot_eq, syncCuts_slot, movedTable_slot]

/-- A record in force stands but where a request rises. -/
theorem evaluateTable_force (s : State) (c : Chain) : (evaluateTable s).slot.inForce.get c =
    if cutRises (movedTable s) c = true then ⟨.muted, cutReason (movedTable s) c⟩ else s.slot.inForce.get c := by
  rw [evaluateTable_slot_eq, syncCuts_inForce, movedTable_slot]

/-- No slot becomes pending. -/
theorem evaluateTable_prepared_none {s : State} (h : s.slot.prepared = none) : (evaluateTable s).slot.prepared = none := by
  have hm : (movedTable s).slot.prepared = none := by rw [movedTable_slot, h]
  rw [evaluateTable_slot_eq]
  simp only [syncCuts, assertMutes, mapDrive_slot, syncCut_prepared, hm, Option.map_none, ite_self]

/-- Each decision of a pending slot after an evaluation. -/
theorem evaluateTable_prepared {s : State} {p : Prepared} (h : s.slot.prepared = some p) :
    ∃ q, (evaluateTable s).slot.prepared = some q ∧ ∀ c, q.chains.get c =
      if cutRises (movedTable s) c = true then cutDecision (cutReason (movedTable s) c) (p.chains.get c)
      else p.chains.get c := by
  have hm : (movedTable s).slot.prepared = some p := by rw [movedTable_slot, h]
  obtain ⟨q, hq, -⟩ := syncCuts_decision (movedTable s) 0 hm
  rw [evaluateTable_slot_eq]
  refine ⟨q, hq, fun c => ?_⟩
  obtain ⟨r, hr, hc⟩ := syncCuts_decision (movedTable s) c hm
  rw [hq] at hr
  obtain rfl := Option.some.inj hr
  exact hc

/-- What a synchronisation leaves of the pending slot besides its decisions and its budget used. -/
theorem syncCuts_prepared_rest {s : State} {p q : Prepared} (h : s.slot.prepared = some p)
    (hq : (syncCuts s).slot.prepared = some q) : q = { p with chains := q.chains, budgetUsed := q.budgetUsed } := by
  have one {t : State} {d : Chain} (ht : ∃ u, t.slot.prepared = some u ∧
      u = { p with chains := u.chains, budgetUsed := u.budgetUsed }) :
      ∃ u, (syncCut t d).slot.prepared = some u ∧ u = { p with chains := u.chains, budgetUsed := u.budgetUsed } := by
    obtain ⟨u, hu, he⟩ := ht
    rw [syncCut_prepared, hu]
    split
    · exact ⟨_, rfl, by rw [cutPrepared, he]⟩
    · exact ⟨u, rfl, he⟩
  obtain ⟨u, hu, he⟩ := one (d := 3) (one (d := 2) (one (d := 1) (one (t := s) (d := 0) ⟨p, h, rfl⟩)))
  have : (syncCuts s).slot.prepared = some u := hu
  rw [this] at hq
  obtain rfl := Option.some.inj hq
  exact he

theorem evaluateTable_prepared_rest {s : State} {p q : Prepared} (h : s.slot.prepared = some p)
    (hq : (evaluateTable s).slot.prepared = some q) : q = { p with chains := q.chains, budgetUsed := q.budgetUsed } := by
  rw [evaluateTable_slot_eq] at hq
  exact syncCuts_prepared_rest (by rw [movedTable_slot, h]) hq

/-- Where one chain's request alone may rise, the pending slot is cut for that chain or stands. -/
theorem evaluateTable_prepared_of_one {s : State} {c : Chain} (h : ∀ d, d ≠ c → cutRises (movedTable s) d = false) :
    (evaluateTable s).slot.prepared = if cutRises (movedTable s) c = true then
      s.slot.prepared.map (cutPrepared c (cutReason (movedTable s) c)) else s.slot.prepared := by
  rw [evaluateTable_slot_eq, syncCuts_prepared_of_one _ c h, movedTable_slot]

theorem muteReason_setCauseIf (b : Bool) (k : Cause) (s : State) (c : Chain) :
    muteReason (setCauseIf b k s) c = muteReason s c := by
  rw [setCauseIf_frame]
  rfl

theorem evaluateTable_drive (s : State) : (evaluateTable s).drive =
    { s.drive with chains := s.drive.chains.mapIdx fun c r => { r with mute := r.mute || muteReason (evaluateTable s) c } } := by
  have hd : (movedTable s).drive = s.drive := by rw [movedTable_frame]
  have hr (c : Chain) : muteReason (syncCut (syncCut (syncCut (syncCut (movedTable s) 0) 1) 2) 3) c =
      muteReason (evaluateTable s) c := by
    rw [evaluateTable_eq, muteReason_setCauseIf, syncCuts, muteReason_assertMutes]
  rw [show (evaluateTable s).drive = (syncCuts (movedTable s)).drive by rw [evaluateTable_eq, setCauseIf_frame],
    syncCuts_drive, hd]
  simp only [hr]

theorem evaluateTable_port (s : State) : (evaluateTable s).port = { s.port with
    ncause := if anyNoticed s.supervisor.entries (evaluatedEntries s) then s.port.ncause ||| 2 else s.port.ncause } := by
  have hp : (syncCuts (movedTable s)).port = s.port := by rw [syncCuts_frame, movedTable_frame]
  rw [evaluateTable_eq, setCauseIf_ncause, hp]
  rfl

theorem evaluateTable_xm (s : State) : (evaluateTable s).xm = (movedTable s).xm := synced_xm _ _ _

/-! ### Latches (R109) -/

/-- The evaluation latches the chain's stuck-drive entry. -/
def Latches (s : State) (c : Chain) : Prop :=
  condState s (chainEntry c 2) ≠ .latched ∧ condState (evaluateTable s) (chainEntry c 2) = .latched

theorem newLatch_iff (s : State) (c : Chain) : newLatch s (evaluatedEntries s) c = true ↔ Latches s c := by
  rw [Latches, evaluateTable_condState_eq, newLatch, Bool.and_eq_true, decide_eq_true_iff, decide_eq_true_iff]

theorem recordLatchIf_fault (b : Bool) (f : FaultRecord) (c d : Chain) (s : State) :
    (recordLatchIf b f c s).supervisor.faults.get d = if d = c ∧ b = true then f else s.supervisor.faults.get d := by
  cases b
  · simp only [recordLatchIf, Bool.false_eq_true, and_false, if_false]
  · simp only [recordLatchIf, recordLatch, putFault, partWrite_supervisor, PerChain.get_set, if_true, and_true]

theorem recordLatchIf_count (b : Bool) (f : FaultRecord) (c d : Chain) (s : State) :
    (recordLatchIf b f c s).supervisor.latchCount.get d =
      if d = c ∧ b = true then f.latchCount else s.supervisor.latchCount.get d := by
  cases b
  · simp only [recordLatchIf, Bool.false_eq_true, and_false, if_false]
  · simp only [recordLatchIf, recordLatch, putFault, partWrite_supervisor, PerChain.get_set, if_true, and_true]

theorem recordLatchIf_shows (b : Bool) (f : FaultRecord) (c d : Chain) (s : State) :
    memBytes (recordLatchIf b f c s).xm (faultAddr d) 64 =
      if d = c ∧ b = true then faultBytes f else memBytes s.xm (faultAddr d) 64 := by
  cases b
  · simp only [recordLatchIf, Bool.false_eq_true, and_false, if_false]
  · by_cases hd : d = c
    · subst hd
      simp only [recordLatchIf, recordLatch, putFault_shows, PerChain.get_set, if_true, and_self]
    · simp only [recordLatchIf, recordLatch, if_true, putFault_kept hd, hd, false_and, if_false]

theorem recordLatchIf_lands (b : Bool) (f : FaultRecord) (c : Chain) (s : State) :
    Lands (fun a => b = true ∧ InRun (faultAddr c) 64 a) s.xm (recordLatchIf b f c s).xm := by
  cases b
  · exact .refl _ _
  · refine .store fun x h1 h2 => ⟨rfl, h1, ?_⟩
    rwa [faultBytes_length] at h2

/-- A chain latched at the evaluation has its record and count formed from the state before (R109, R110). -/
theorem evaluateTable_latch {s : State} {c : Chain} (h : Latches s c) :
    (evaluateTable s).supervisor.faults.get c = faultAtLatch s c ∧
      (evaluateTable s).supervisor.latchCount.get c = min 255 (s.supervisor.latchCount.get c + 1) ∧
      memBytes (evaluateTable s).xm (faultAddr c) 64 = faultBytes (faultAtLatch s c) := by
  have hn := (newLatch_iff s c).2 h
  have hs : (evaluateTable s).supervisor.faults = (movedTable s).supervisor.faults ∧
      (evaluateTable s).supervisor.latchCount = (movedTable s).supervisor.latchCount := by
    rw [evaluateTable_eq, setCauseIf_frame, syncCuts_supervisor]
    exact ⟨rfl, rfl⟩
  rw [hs.1, hs.2, evaluateTable_xm]
  simp only [movedTable, recordLatches, recordLatchIf_fault, recordLatchIf_count, recordLatchIf_shows, withEntries]
  match c with
  | 0 => simp [hn, faultAtLatch]
  | 1 => simp [hn, faultAtLatch]
  | 2 => simp [hn, faultAtLatch]
  | 3 => simp [hn, faultAtLatch]

/-- Without a latch the record and the count stand. -/
theorem evaluateTable_unlatched {s : State} {c : Chain} (h : ¬Latches s c) :
    (evaluateTable s).supervisor.faults.get c = s.supervisor.faults.get c ∧
      (evaluateTable s).supervisor.latchCount.get c = s.supervisor.latchCount.get c := by
  have hn : ¬newLatch s (evaluatedEntries s) c = true := fun hc => h ((newLatch_iff s c).1 hc)
  have hs : (evaluateTable s).supervisor.faults = (movedTable s).supervisor.faults ∧
      (evaluateTable s).supervisor.latchCount = (movedTable s).supervisor.latchCount := by
    rw [evaluateTable_eq, setCauseIf_frame, syncCuts_supervisor]
    exact ⟨rfl, rfl⟩
  rw [hs.1, hs.2]
  simp only [movedTable, recordLatches, recordLatchIf_fault, recordLatchIf_count, withEntries]
  match c with
  | 0 => simp [hn, forgetCuts]
  | 1 => simp [hn, forgetCuts]
  | 2 => simp [hn, forgetCuts]
  | 3 => simp [hn, forgetCuts]

/-- The evaluation of the table writes the records of new latches alone. -/
theorem evaluateTable_kept (s : State) :
    MemoryKept (fun a => ∃ c, Latches s c ∧ InRun (faultAddr c) 64 a) s (evaluateTable s) := by
  have one (c : Chain) (f : FaultRecord) (u : State) : Lands (fun a => ∃ c, Latches s c ∧ InRun (faultAddr c) 64 a) u.xm
      (recordLatchIf (newLatch s (evaluatedEntries s) c) f c u).xm :=
    (recordLatchIf_lands _ f c u).mono fun a ha => ⟨c, (newLatch_iff s c).1 ha.1, ha.2⟩
  have hl := (((one 0 (faultAtLatch s 0) (withEntries (evaluatedEntries s) (forgetCuts s))).trans
    (one 1 (faultAtLatch s 1) _)).trans (one 2 (faultAtLatch s 2) _)).trans (one 3 (faultAtLatch s 3) _)
  intro x hx
  rw [evaluateTable_xm]
  exact hl.kept x hx

end Sys2Proof.Machine
end

section
/-! What one evaluation answers (sections 6.2 to 6.6): the table's move with its cause and cut requests, the trip, the clear and
the latch of one entry, and the stop when all four open-sensor entries stand in TRIPPED. -/

namespace Sys2Proof.Machine

/-! ### The stop of R112 -/

/-- The evaluation asks for a stop that is taken. -/
def SensorsLostStop (s : State) : Prop :=
  (s.governor.state = .idle ∨ s.governor.state = .running) ∧ ∀ c, condState (evaluateTable s) (chainEntry c 3) = .tripped

theorem evaluate_of_stop {s : State} (h : SensorsLostStop s) :
    evaluate s = requestStop .sensorsLost s.thermal.steps (evaluateTable s) := by
  have ht : (evaluateTable s).thermal = s.thermal := by rw [evaluateTable_frame]
  unfold evaluate
  rw [if_pos ((allSensorsLost_iff _).2 h.2), ht]

theorem evaluateTable_governor (s : State) : (evaluateTable s).governor = s.governor := by rw [evaluateTable_frame]

theorem evaluateTable_capture (s : State) : (evaluateTable s).capture = s.capture := by rw [evaluateTable_frame]

theorem cutDecision_tj (why : Reason) (d : Decision) : (cutDecision why d).tj = d.tj := by
  unfold cutDecision
  split <;> rfl

theorem evaluateTable_pending (s : State) :
    (evaluateTable s).slot.prepared.isSome = s.slot.prepared.isSome := by
  cases hs : s.slot.prepared with
  | none => rw [evaluateTable_prepared_none hs]
  | some p =>
    obtain ⟨q, hq, -⟩ := evaluateTable_prepared hs
    rw [hq]
    rfl

theorem evaluateTable_cancelledEntry (s : State) : CancelledEntry (evaluateTable s) = CancelledEntry s := by
  have hn : (evaluateTable s).slot.n = s.slot.n := by rw [evaluateTable_slot]
  funext x
  rw [CancelledEntry, CancelledEntry, hn, evaluateTable_pending]

/-- The stop of an evaluation, told from the state before the evaluation. -/
theorem evaluate_stopped {s : State} (h : SensorsLostStop s) :
    Stopped .sensorsLost s.thermal.steps (evaluateTable s).port.ncause s (evaluate s) ∧
      (evaluate s).slot.watch = s.slot.watch ∧ MemoryKept (CancelledEntry s) (evaluateTable s) (evaluate s) := by
  have hg := evaluateTable_governor s
  obtain ⟨⟨⟨hslot, hout⟩, hsilent, hcapture, hgov, hport⟩, hwatch, hkept⟩ :=
    requestStop_stopped (s := evaluateTable s) .sensorsLost s.thermal.steps (by rw [hg]; exact h.1)
  rw [← evaluate_of_stop h] at hslot hout hsilent hcapture hgov hport hwatch hkept
  have htrans : (evaluateTable s).drive.transfer = s.drive.transfer := by rw [evaluateTable_drive]
  rw [evaluateTable_cancelledEntry] at hkept
  have hs := evaluateTable_slot s
  refine ⟨⟨⟨?_, fun p hp => ?_⟩, ⟨?_, fun c => ?_⟩, ?_, ?_, ?_⟩, ?_, hkept⟩
  · rw [evaluateTable_pending] at hslot
    rw [hslot, hs]
  · obtain ⟨q, hq, hc⟩ := evaluateTable_prepared hp
    have hr := evaluateTable_prepared_rest hp hq
    have ho := hout q hq
    have htj (c : Chain) : (q.chains.get c).tj = (p.chains.get c).tj := by
      rw [hc]
      split
      · exact cutDecision_tj _ _
      · rfl
    have hn : (evaluateTable s).slot.n = s.slot.n := by rw [hs]
    have hm : q.missCount = p.missCount := by rw [hr]
    have hb : q.budget = p.budget := by rw [hr]
    simp only [htj, hn, hm, hb] at ho
    exact ho
  · rw [hsilent.1, htrans]
  · rw [hsilent.2, evaluateTable_drive, PerChain.get_mapIdx]
  · rw [hcapture, evaluateTable_capture]
  · rw [hgov, hg, htrans, evaluateTable_capture]
  · rw [hport, htrans, evaluateTable_capture, evaluateTable_port]
  · rw [hwatch, hs]

theorem evaluateTable_ncause (s : State) :
    (evaluateTable s).port.ncause = s.port.ncause ∨ (evaluateTable s).port.ncause = s.port.ncause ||| 2 := by
  rw [evaluateTable_port]
  dsimp only
  split
  · exact .inr rfl
  · exact .inl rfl

theorem fault_run {c : Chain} {a : Nat} (h : InRun (faultAddr c) 64 a) : InRun 0x0C00 256 a := by
  simp only [InRun, faultAddr] at *
  omega

/-- What an evaluation writes: the records of new latches and a cancelled slot's outcome. -/
theorem evaluate_kept (s : State) :
    MemoryKept (fun a => (∃ c, Latches s c ∧ InRun (faultAddr c) 64 a) ∨ CancelledEntry s a) s (evaluate s) := by
  intro x hx
  have hk := evaluateTable_kept s x fun h => hx (.inl h)
  by_cases h : SensorsLostStop s
  · rw [(evaluate_stopped h).2.2 x fun hc => hx (.inr hc), hk]
  · rw [evaluate_of_no_stop s h, hk]

/-- Settles O41: the stop that an evaluation of four TRIPPED open-sensor entries asks for, after the table's own changes. -/
theorem lostSensorsStopThePart : Obligations.LostSensorsStopThePart := by
  intro s hf hg hall
  have hstop : SensorsLostStop s := by
    refine ⟨hg, fun c => ?_⟩
    rw [evaluateTable_condState_eq, evaluatedEntries, vmapIdx_get]
    exact hall c
  obtain ⟨hst, hwatch, -⟩ := evaluate_stopped hstop
  refine ⟨evaluate s, (evaluateTable s).port.ncause, exec_conditionEvaluation hf, evaluateTable_ncause s, hst, hwatch,
    fun x hx => ?_, evaluate_frame s⟩
  refine evaluate_kept s x fun h => hx (h.imp_left ?_)
  rintro ⟨c, -, hr⟩
  exact fault_run hr

/-! ### The cause COND (R104) -/

theorem anyNoticed_iff (s : State) : anyNoticed s.supervisor.entries (evaluatedEntries s) = true ↔ ∃ id : Fin 19,
    (condState (evaluate s) id ≠ condState s id ∧
      (condState (evaluate s) id = .tripped ∨ condState (evaluate s) id = .latched)) ∨
    (condState (evaluate s) id = .clear ∧
      (condState s id = .tripped ∨ condState s id = .holdoff ∨ condState s id = .latched)) := by
  simp only [evaluate_condState_entries, anyNoticed, List.any_eq_true, List.mem_finRange, true_and, noticed,
    Bool.or_eq_true, tripsTo_iff, clearsFrom_iff]
  rfl

theorem evaluate_ncause_and_cond (s : State) : (evaluate s).port.ncause &&& 2 = (evaluateTable s).port.ncause &&& 2 := by
  by_cases h : SensorsLostStop s
  · rw [(evaluate_stopped h).1.2.2.2.2]
    dsimp only
    split
    · exact (BitVec.and_or_distrib_right).trans (BitVec.or_zero)
    · rfl
  · rw [evaluate_of_no_stop s h]

theorem evaluate_cond (s : State) : causeSet .cond (evaluate s) = true ↔
    causeSet .cond s = true ∨ anyNoticed s.supervisor.entries (evaluatedEntries s) = true := by
  have hc (u : State) : causeSet .cond u = true ↔ u.port.ncause &&& 2 ≠ 0 := by
    exact decide_eq_true_iff
  rw [hc, hc, evaluate_ncause_and_cond, evaluateTable_port]
  cases anyNoticed s.supervisor.entries (evaluatedEntries s) with
  | false => simp
  | true =>
    simp only [if_true, or_true, iff_true]
    intro h
    have h1 : (s.port.ncause ||| 2) &&& 2 = 2 := by
      rw [BitVec.and_or_distrib_right]
      ext i hi
      simp
    rw [h1] at h
    exact absurd h (by decide)

/-! ### The evaluation as a whole -/

theorem evaluate_request (s : State) (c : Chain) : (evaluate s).supervisor.cutRequest.get c =
    ((condState (evaluate s) (chainEntry c 0)).acting ||
      decide (condState (evaluate s) (chainEntry c 2) = .latched)) := by
  rw [evaluate_supervisor, evaluateTable_request, evaluate_condState, evaluate_condState]

theorem evaluateTable_mute (s : State) (c : Chain) : ((evaluateTable s).drive.chains.get c).mute =
    ((s.drive.chains.get c).mute || muteReason (evaluateTable s) c) := by
  rw [evaluateTable_drive]
  exact congrArg DriveRecord.mute (PerChain.get_mapIdx _ _ _)

/-- A raised cut request has its line asserted after the evaluation (R144). -/
theorem evaluate_mute_of_request {s : State} {c : Chain} (h : (evaluate s).supervisor.cutRequest.get c = true) :
    ((evaluate s).drive.chains.get c).mute = true := by
  rw [evaluate_supervisor] at h
  have ht : ((evaluateTable s).drive.chains.get c).mute = true := by
    rw [evaluateTable_mute, (muteReason_iff _ c).2 (.inr (.inl h)), Bool.or_true]
  by_cases hs : SensorsLostStop s
  · rw [(evaluate_stopped hs).1.2.1.2 c]
  · rwa [evaluate_of_no_stop s hs]

/-- No line is released by an evaluation (R145). -/
theorem evaluate_mute_kept {s : State} {c : Chain} (h : (s.drive.chains.get c).mute = true) :
    ((evaluate s).drive.chains.get c).mute = true := by
  by_cases hs : SensorsLostStop s
  · rw [(evaluate_stopped hs).1.2.1.2 c]
  · rw [evaluate_of_no_stop s hs, evaluateTable_mute, h, Bool.true_or]

/-- Under the line law the new reasons of an evaluation are the cut requests it raises. -/
theorem evaluateTable_mute_of_law {s : State} (h : MuteLaw s) (c : Chain) :
    ((evaluateTable s).drive.chains.get c).mute =
      ((s.drive.chains.get c).mute || (evaluateTable s).supervisor.cutRequest.get c) := by
  have hm := (muteLaw_iff s).1 h c
  rw [evaluateTable_mute]
  cases hr : cutRises (movedTable s) c with
  | true =>
    rw [cutRises_movedTable, Bool.and_eq_true] at hr
    rw [hr.1, (muteReason_iff _ c).2 (.inr (.inl hr.1))]
  | false =>
    have hkeep : muteReason (evaluateTable s) c = true →
        muteReason s c = true ∨ (evaluateTable s).supervisor.cutRequest.get c = true := by
      intro hreason
      obtain hg | hc | hcut | hf | ⟨q, hq, hv⟩ := (muteReason_iff _ c).1 hreason
      · exact .inl ((muteReason_iff s c).2 (.inl (by rwa [evaluateTable_governor] at hg)))
      · exact .inr hc
      · refine .inl ((muteReason_iff s c).2 (.inr (.inr (.inl ?_))))
        rw [evaluateTable_drive] at hcut
        rwa [PerChain.get_mapIdx] at hcut
      · refine .inl ((muteReason_iff s c).2 (.inr (.inr (.inr (.inl ?_)))))
        rwa [evaluateTable_force, hr, if_neg Bool.false_ne_true] at hf
      · refine .inl ((muteReason_iff s c).2 (.inr (.inr (.inr (.inr ?_)))))
        cases hp : s.slot.prepared with
        | none => rw [evaluateTable_prepared_none hp] at hq; cases hq
        | some p =>
          obtain ⟨q', hq', hc⟩ := evaluateTable_prepared hp
          rw [hq'] at hq
          obtain rfl := Option.some.inj hq
          rw [hc, hr, if_neg Bool.false_ne_true] at hv
          exact ⟨p, rfl, hv⟩
    cases hmute : (s.drive.chains.get c).mute with
    | true => rfl
    | false =>
      rw [Bool.false_or, Bool.false_or]
      cases hreq : (evaluateTable s).supervisor.cutRequest.get c with
      | true => exact (muteReason_iff _ c).2 (.inr (.inl hreq))
      | false =>
        refine Bool.eq_false_iff.2 fun hreason => ?_
        obtain hs | hs := hkeep hreason
        · rw [hm hs] at hmute; cases hmute
        · rw [hreq] at hs; cases hs

theorem evaluateTable_or_cond (s : State) : (evaluateTable s).port.ncause ||| 2 = s.port.ncause ||| 2 := by
  obtain h | h := evaluateTable_ncause s
  · rw [h]
  · rw [h, BitVec.or_assoc, BitVec.or_self]

/-- What an evaluation without a stop keeps of the slot: what no newly raised request cuts. -/
theorem evaluateTable_slot_kept (s : State) :
    (∀ c, ((evaluateTable s).supervisor.cutRequest.get c = false ∨ s.supervisor.cutRequest.get c = true) →
      (evaluateTable s).slot.inForce.get c = s.slot.inForce.get c) ∧
    (∀ p, s.slot.prepared = some p → ∃ q, (evaluateTable s).slot.prepared = some q ∧
      q = { p with chains := q.chains, budgetUsed := q.budgetUsed } ∧
      ∀ c, ((evaluateTable s).supervisor.cutRequest.get c = false ∨ s.supervisor.cutRequest.get c = true) →
        q.chains.get c = p.chains.get c) ∧
    ((∀ c, (evaluateTable s).supervisor.cutRequest.get c = false ∨ s.supervisor.cutRequest.get c = true) →
      (evaluateTable s).slot.prepared = s.slot.prepared) := by
  simp only [← cutRises_movedTable_iff]
  refine ⟨fun c hc => ?_, fun p hp => ?_, fun hall => ?_⟩
  · rw [evaluateTable_force, hc, if_neg Bool.false_ne_true]
  · obtain ⟨q, hq, hqc⟩ := evaluateTable_prepared hp
    refine ⟨q, hq, evaluateTable_prepared_rest hp hq, fun c hc => ?_⟩
    rw [hqc, hc, if_neg Bool.false_ne_true]
  · rw [evaluateTable_prepared_of_one (c := 0) fun d _ => hall d, hall 0, if_neg Bool.false_ne_true]

/-- Settles O35: the table's move by the state machine, its effects by the synchronised cut requests and the latches. -/
theorem evaluationMovesTheTable : Obligations.EvaluationMovesTheTable := by
  intro s hf
  refine ⟨evaluate s, exec_conditionEvaluation hf, evaluate_entry s, evaluate_request s, ?_, fun hn => ?_,
    fun hg hall => ?_, fun c hl => ?_, ?_, evaluate_frame s⟩
  · rw [evaluate_cond, anyNoticed_iff]
  · simp only [evaluate_condState] at hn
    rw [evaluate_of_no_stop s hn]
    obtain ⟨hforce, hprep, hall⟩ := evaluateTable_slot_kept s
    refine ⟨evaluateTable_governor s, evaluateTable_capture s, by rw [evaluateTable_port], evaluateTable_or_cond s,
      evaluateTable_slot s, hforce, evaluateTable_justCut s, evaluateTable_prepared_none, hprep, hall,
      evaluateTable_kept s, by rw [evaluateTable_drive], fun c => ⟨?_, fun h => ?_⟩,
      fun hm c => evaluateTable_mute_of_law hm c⟩
    · rw [evaluateTable_drive, PerChain.get_mapIdx]
    · rw [evaluateTable_mute]
      obtain h | h := h
      · rw [h, Bool.true_or]
      · rw [(muteReason_iff _ c).2 (.inr (.inl h)), Bool.or_true]
  · simp only [evaluate_condState] at hall
    exact (evaluate_stopped ⟨hg, hall⟩).1.2.1
  · simp only [evaluate_condState] at hl
    rw [evaluate_supervisor]
    exact evaluateTable_unlatched hl
  · simp only [evaluate_condState]
    exact evaluate_kept s

/-! ### A trip, a cut, a latch and a clear -/

/-- An entry on its trip side at its dwell, or back from HOLDOFF, trips (R98, R99, R101). -/
theorem evaluateEntry_trips {id : Fin 19} {e : CondEntry} (hd : e.dwell ≠ 0)
    (h : (e.state = .clear ∧ e.dwell = 1) ∨ (e.state = .alert ∧ e.dwell ≤ min 65535 (e.elapsed + 1)) ∨
      e.state = .holdoff) : evaluateEntry id e (some .trip) =
      { e with state := if e.state ≠ .holdoff ∧ id.val < 16 ∧ id.val % 4 = 2 then .latched else .tripped, elapsed := 0 } := by
  obtain ⟨hs, h1⟩ | ⟨hs, hcount⟩ | hs := h
  all_goals rw [evaluateEntry_of_enabled id _ (by rw [hs]; exact nofun) hd]
  · rw [(moveEntry_of_clear id hs).1, if_pos (by omega), trippedEntry_eq, hs]
    simp only [ne_eq, reduceCtorEq, not_false_eq_true, true_and]
  · rw [(moveEntry_of_alert id hs).1, if_pos hcount, trippedEntry_eq, hs]
    simp only [ne_eq, reduceCtorEq, not_false_eq_true, true_and]
  · rw [(moveEntry_of_holdoff id hs).2 .trip nofun, hs]
    simp only [ne_eq, not_true, false_and, if_false]

theorem exec_conditionTrip {s : State} {entry : Fin 19} (hf : resetHeld s = false) (h : wouldTrip s entry = true) :
    exec (.conditionTrip entry) s = .next (evaluate s) := by
  show Host.Outcome.next (if wouldTrip s entry = true then unlessHeld evaluate s else s) = _
  rw [if_pos h, unlessHeld_of_free hf]

theorem exec_conditionClear {s : State} {entry : Fin 19} (hf : resetHeld s = false) (h : wouldClear s entry = true) :
    exec (.conditionClear entry) s = .next (evaluate s) := by
  show Host.Outcome.next (if wouldClear s entry = true then unlessHeld evaluate s else s) = _
  rw [if_pos h, unlessHeld_of_free hf]

/-- What holds of the evaluation at which an entry trips. -/
theorem evaluate_trips {s : State} {id : Fin 19} (hside : entrySide s id s.supervisor.entries[id] = some .trip)
    (hd : s.supervisor.entries[id].dwell ≠ 0)
    (h : (s.supervisor.entries[id].state = .clear ∧ s.supervisor.entries[id].dwell = 1) ∨
      (s.supervisor.entries[id].state = .alert ∧
        s.supervisor.entries[id].dwell ≤ min 65535 (s.supervisor.entries[id].elapsed + 1)) ∨
      s.supervisor.entries[id].state = .holdoff) :
    condState (evaluate s) id = (if s.supervisor.entries[id].state ≠ .holdoff ∧ id.val < 16 ∧ id.val % 4 = 2
      then .latched else .tripped) ∧
    (evaluate s).supervisor.entries[id].elapsed = 0 ∧ causeSet .cond (evaluate s) = true ∧ wouldTrip s id = true := by
  have he := evaluate_entry s id
  rw [hside, evaluateEntry_trips hd h] at he
  have hst : condState (evaluate s) id = (if s.supervisor.entries[id].state ≠ .holdoff ∧ id.val < 16 ∧ id.val % 4 = 2
      then .latched else .tripped) := by
    rw [condState, he]
  have hnew : condState (evaluate s) id = .tripped ∨ condState (evaluate s) id = .latched := by
    rw [hst]
    split
    · exact .inr rfl
    · exact .inl rfl
  have hold : condState s id = .clear ∨ condState s id = .alert ∨ condState s id = .holdoff :=
    h.imp And.left (Or.imp_left And.left)
  have hmoved : condState (evaluate s) id ≠ condState s id := by
    obtain hn | hn := hnew <;> obtain ho | ho | ho := hold <;> rw [hn, ho] <;> exact nofun
  exact ⟨hst, by rw [he], (evaluate_cond s).2 (.inr ((anyNoticed_iff s).2 ⟨id, .inl ⟨hmoved, hnew⟩⟩)),
    (wouldTrip_iff s id).2 ⟨hmoved, hnew⟩⟩

theorem cutDecision_of_on {d : Decision} {r : OnRecord} (why : Reason) (h : d.verdict = .on r) :
    cutDecision why d = ⟨.muted (some r.clamped) (some r.cth), why, d.tj⟩ := by
  simp only [cutDecision, h]

theorem cutDecision_of_off {d : Decision} (why : Reason) (h : d.verdict = .off) :
    cutDecision why d = ⟨.muted none none, why, d.tj⟩ := by
  simp only [cutDecision, h]

/-- What a newly raised request does to its chain at an evaluation without a stop (R17). -/
theorem evaluateTable_cut {s : State} {c : Chain} (hr : cutRises (movedTable s) c = true) :
    (evaluateTable s).slot.inForce.get c = ⟨.muted, cutReason (movedTable s) c⟩ ∧
    ∀ p, s.slot.prepared = some p → ∃ q, (evaluateTable s).slot.prepared = some q ∧
      (∀ r, (p.chains.get c).verdict = .on r →
        q.chains.get c = ⟨.muted (some r.clamped) (some r.cth), cutReason (movedTable s) c, (p.chains.get c).tj⟩) ∧
      ((p.chains.get c).verdict = .off →
        q.chains.get c = ⟨.muted none none, cutReason (movedTable s) c, (p.chains.get c).tj⟩) ∧
      (∀ x y, (p.chains.get c).verdict = .muted x y → q.chains.get c = p.chains.get c) ∧
      ((∀ d, d ≠ c → (evaluateTable s).supervisor.cutRequest.get d = s.supervisor.cutRequest.get d) →
        q = { p with
          chains := p.chains.set c (q.chains.get c)
          budgetUsed := p.budgetUsed - (p.chains.get c).verdict.current }) := by
  refine ⟨by rw [evaluateTable_force, if_pos hr], fun p hp => ?_⟩
  obtain ⟨q, hq, hc⟩ := evaluateTable_prepared hp
  have hqc := hc c
  rw [if_pos hr] at hqc
  refine ⟨q, hq, fun r h => ?_, fun h => ?_, fun x y h => ?_, fun hone => ?_⟩
  · rw [hqc, cutDecision_of_on _ h]
  · rw [hqc, cutDecision_of_off _ h]
  · rw [hqc]
    simp only [cutDecision, h]
  · have hothers (d : Chain) (hd : d ≠ c) : cutRises (movedTable s) d = false := by
      rw [cutRises_movedTable, hone d hd, Bool.and_not_self]
    rw [evaluateTable_prepared_of_one hothers, if_pos hr, hp, Option.map_some] at hq
    rw [hqc, ← Option.some.inj hq]
    rfl

/-- Settles O36: the trip by the entry's move, the cut by the request that its junction-over entry raises. -/
theorem conditionTripsAtTheDwell : Obligations.ConditionTripsAtTheDwell := by
  refine ⟨fun s id hf hside hd h => ?_, fun s t c he hreq hsd hjt hn hold hnl => ?_⟩
  · obtain ⟨hst, hel, hcond, hwould⟩ := evaluate_trips hside hd h
    exact ⟨evaluate s, exec_conditionEvaluation hf, exec_conditionTrip hf hwould, hst, hel, hcond⟩
  · obtain rfl := Host.Outcome.next.inj he
    obtain hidle | hmoves := unlessHeld_cases evaluate s
    · rw [hidle] at hjt
      exact absurd hjt hold
    rw [hmoves] at hsd hjt hn ⊢
    have hjt' := hjt
    rw [evaluate_condState] at hjt'
    have hraised : (evaluateTable s).supervisor.cutRequest.get c = true := by
      rw [evaluateTable_request, hjt']
      rfl
    have hr : cutRises (movedTable s) c = true := by
      rw [cutRises_movedTable, hraised, hreq]
      rfl
    have hwhy : cutReason (movedTable s) c = .cut := by
      rw [cutReason_movedTable, if_neg]
      rintro ⟨hl, -⟩
      rw [evaluate_condState, hl] at hsd
      exact hnl hsd
    have hmute := evaluate_mute_of_request (s := s) (c := c) (by rwa [evaluate_supervisor])
    simp only [evaluate_condState] at hn
    rw [evaluate_of_no_stop s hn] at hmute ⊢
    obtain ⟨hforce, hprep⟩ := evaluateTable_cut hr
    rw [hwhy] at hforce hprep
    exact ⟨hraised, hforce, hmute, hprep⟩

/-- Settles O37: the latch by the entry's move, its record from the state before, the lock by the request it raises. -/
theorem stuckDriveLatchWritesTheFaultRecord : Obligations.StuckDriveLatchWritesTheFaultRecord := by
  intro s c hf e hside h
  have hd : e.dwell ≠ 0 := by
    obtain ⟨-, h1⟩ | ⟨-, h1, -⟩ := h <;> omega
  have hnh : e.state ≠ .holdoff := by
    obtain ⟨hs, -⟩ | ⟨hs, -, -⟩ := h <;> rw [hs] <;> exact nofun
  have hnl : condState s (chainEntry c 2) ≠ .latched := by
    have : condState s (chainEntry c 2) = e.state := rfl
    obtain ⟨hs, -⟩ | ⟨hs, -, -⟩ := h <;> rw [this, hs] <;> exact nofun
  obtain ⟨hst, -, -, hwould⟩ := evaluate_trips hside hd
    (h.imp_right fun ha => .inl ⟨ha.1, ha.2.2⟩)
  rw [if_pos ⟨hnh, (stuckDrive_chainEntry c 2).2 rfl⟩] at hst
  have hlatched : condState (evaluateTable s) (chainEntry c 2) = .latched := by rwa [evaluate_condState] at hst
  obtain ⟨hfault, hcount, hshows⟩ := evaluateTable_latch ⟨hnl, hlatched⟩
  have hraised : (evaluate s).supervisor.cutRequest.get c = true := by
    rw [evaluate_request, hst]
    exact Bool.or_true _
  refine ⟨evaluate s, (faultAtLatch s c).ackWord, exec_conditionEvaluation hf, exec_conditionTrip hf hwould, hst, ?_, ?_,
    fun x hx => ?_, ?_, hraised, evaluate_mute_of_request hraised, fun hreq hn => ?_⟩
  · rw [evaluate_supervisor, hcount]
  · rw [evaluate_supervisor, hcount, hfault]
    rfl
  · simp only [faultAtLatch, hx]
  · rw [evaluate_supervisor, hfault, ← hshows]
    by_cases hs : SensorsLostStop s
    · refine List.map_congr_left fun i hi => (evaluate_stopped hs).2.2 _ fun hc => ?_
      have := outcome_run_bounds _ _ hc.2
      simp only [faultAddr] at this
      omega
    · rw [evaluate_of_no_stop s hs]
  · rw [evaluate_supervisor] at hraised
    have hr : cutRises (movedTable s) c = true := by
      rw [cutRises_movedTable, hraised, hreq]
      rfl
    have hwhy := cutReason_movedTable s c
    obtain ⟨hforce, hprep⟩ := evaluateTable_cut hr
    simp only [evaluate_condState] at hn ⊢
    rw [evaluate_of_no_stop s hn]
    refine ⟨cutReason (movedTable s) c, ?_, fun hjt => ?_, hforce, hprep⟩
    · rw [hwhy]
      split
      · exact .inl rfl
      · exact .inr rfl
    · rw [hwhy, if_pos ⟨hlatched, by rw [hjt]; rfl⟩]

/-- An acting entry that meets its hold, or is disabled, returns to CLEAR (R100, R101, R103). -/
theorem evaluateEntry_clears {id : Fin 19} {e : CondEntry} {x : Side}
    (h : (e.state = .tripped ∧ ((x = .recovery ∧ e.hold ≤ 1) ∨ e.dwell = 0)) ∨
      (e.state = .holdoff ∧ ((x = .recovery ∧ e.hold ≤ min 65535 (e.elapsed + 1)) ∨ e.dwell = 0))) :
    evaluateEntry id e (some x) = clearedEntry e := by
  have hl : e.state ≠ .latched := by
    obtain ⟨hs, -⟩ | ⟨hs, -⟩ := h <;> rw [hs] <;> exact nofun
  by_cases hd : e.dwell = 0
  · simp only [evaluateEntry, if_neg hl, if_pos hd]
  · rw [evaluateEntry_of_enabled id x hl hd]
    obtain ⟨hs, h | h⟩ | ⟨hs, h | h⟩ := h
    · rw [h.1, (moveEntry_of_tripped id hs).1, if_pos h.2]
    · exact absurd h hd
    · rw [h.1, (moveEntry_of_holdoff id hs).1, if_pos h.2]
    · exact absurd h hd

/-- Settles O38: the entry's move to CLEAR with its notice; a withdrawn request by what the entries call for. -/
theorem conditionClearsAtTheHold : Obligations.ConditionClearsAtTheHold := by
  intro s id x hf e hside h
  have he := evaluate_entry s id
  rw [hside, evaluateEntry_clears h] at he
  have hst : condState (evaluate s) id = .clear := by
    rw [condState, he]
    rfl
  have hold : condState s id = .tripped ∨ condState s id = .holdoff ∨ condState s id = .latched :=
    h.imp And.left fun h => .inl h.1
  refine ⟨evaluate s, exec_conditionEvaluation hf, exec_conditionClear hf ((wouldClear_iff s id).2 ⟨hst, hold⟩), hst,
    by rw [he]; rfl, (evaluate_cond s).2 (.inr ((anyNoticed_iff s).2 ⟨id, .inr ⟨hst, hold⟩⟩)), fun c hid hnl => ?_,
    fun c hm => evaluate_mute_kept hm⟩
  rw [evaluate_request, ← hid, hst, decide_eq_false hnl]
  rfl

end Sys2Proof.Machine
end

section
/-! The Drive Port (chapter 8): words handed over and served, a transfer's completion, the results that an activation counts. -/

namespace Sys2Proof.Machine

/-! ### The arbiter (R138) -/

/-- The arbiter's pass sends nothing for the chain: no word is pending, or one that needs no transfer. -/
def PassesOver (d : DrivePort) (b : Chain) : Prop :=
  ∀ x, (d.chains.get b).waiting = some x → (d.chains.get b).cut = false ∧ (d.chains.get b).lastAck = some x

/-- A drive record whose pending word, if any, needs no transfer, after the arbiter's pass. -/
def passedOver (r : DriveRecord) : DriveRecord :=
  if r.waiting.isSome then { r with waiting := none, fate := .acknowledged } else r

theorem passedOver_waiting (r : DriveRecord) : (passedOver r).waiting = none := by
  unfold passedOver
  split
  · rfl
  · next h => exact Option.not_isSome_iff_eq_none.1 h

theorem passedOver_idem (r : DriveRecord) : passedOver (passedOver r) = passedOver r := by
  rw [passedOver, passedOver_waiting]
  rfl

/-- The pass over the named chains. -/
def passOver (cs : List Chain) (d : DrivePort) : DrivePort :=
  { d with chains := d.chains.mapIdx fun b r => if b ∈ cs then passedOver r else r }

theorem serveWaiting_cons_passed {d : DrivePort} {c : Chain} (h : PassesOver d c) (cs : List Chain) :
    serveWaiting (c :: cs) d = serveWaiting cs { d with chains := d.chains.set c (passedOver (d.chains.get c)) } := by
  rw [serveWaiting]
  split
  · next hw =>
    have : passedOver (d.chains.get c) = d.chains.get c := by rw [passedOver, hw]; rfl
    have hset : d.chains.set c (d.chains.get c) = d.chains := PerChain.ext_get fun b => by
      rw [PerChain.get_set]
      split
      · next hb => rw [hb]
      · rfl
    rw [this, hset]
  · next w hw =>
    obtain ⟨hcut, hack⟩ := h w hw
    rw [if_pos (by rw [hcut, hack]; simp), passedOver, hw]
    rfl

theorem serveWaiting_append_passed (pre rest : List Chain) {d : DrivePort} (h : ∀ b ∈ pre, PassesOver d b) :
    serveWaiting (pre ++ rest) d = serveWaiting rest (passOver pre d) := by
  induction pre generalizing d with
  | nil =>
    have : d.chains.mapIdx (fun b r => if b ∈ ([] : List Chain) then passedOver r else r) = d.chains :=
      PerChain.ext_get fun b => by simp
    rw [passOver, this]
    rfl
  | cons c cs ih =>
    rw [List.cons_append, serveWaiting_cons_passed (h c List.mem_cons_self), ih]
    · refine congrArg (fun v => serveWaiting rest ⟨v, d.transfer⟩) (PerChain.ext_get fun b => ?_)
      simp only [PerChain.get_mapIdx, PerChain.get_set, List.mem_cons]
      by_cases hb : b = c
      · subst hb
        simp only [if_true, true_or, passedOver_idem, ite_self]
      · simp only [hb, if_false, false_or]
    · intro b hb x hx
      simp only [PerChain.get_set] at hx ⊢
      split at hx
      · rw [passedOver_waiting] at hx
        cases hx
      · next hbc => rw [if_neg hbc]; exact h b (List.mem_cons_of_mem c hb) x hx

/-- The pass starts the transfer of a word that needs one. -/
theorem serveWaiting_cons_sent {d : DrivePort} {c : Chain} {w : DriveWord} (hw : (d.chains.get c).waiting = some w)
    (h : (d.chains.get c).cut = true ∨ (d.chains.get c).lastAck ≠ some w) (cs : List Chain) :
    serveWaiting (c :: cs) d =
      ⟨d.chains.set c { d.chains.get c with waiting := none }, some ⟨c, w, false, true⟩⟩ := by
  rw [serveWaiting]
  split
  · next hn => rw [hn] at hw; cases hw
  · next w' hw' =>
    obtain rfl := Option.some.inj (hw.symm.trans hw')
    rw [if_neg]
    simp only [Bool.and_eq_true, Bool.not_eq_true', decide_eq_true_iff]
    rintro ⟨hc, ha⟩
    obtain h | h := h
    · rw [hc] at h; cases h
    · exact h ha

theorem chains_below (c : Chain) :
    ∃ pre post, ([0, 1, 2, 3] : List Chain) = pre ++ c :: post ∧ ∀ b, b ∈ pre ↔ b < c := by
  match c with
  | 0 => exact ⟨[], [1, 2, 3], rfl, by decide⟩
  | 1 => exact ⟨[0], [2, 3], rfl, by decide⟩
  | 2 => exact ⟨[0, 1], [3], rfl, by decide⟩
  | 3 => exact ⟨[0, 1, 2], [], rfl, by decide⟩

/-- With the link free the lowest chain whose word needs a transfer is served; the chains below it are passed over. -/
theorem arbitrate_of_sent {d : DrivePort} {c : Chain} {w : DriveWord} (ht : d.transfer = none)
    (hw : (d.chains.get c).waiting = some w) (h : (d.chains.get c).cut = true ∨ (d.chains.get c).lastAck ≠ some w)
    (hbelow : ∀ b, b < c → PassesOver d b) :
    (arbitrate d).transfer = some ⟨c, w, false, true⟩ ∧
      ∀ b, (arbitrate d).chains.get b = if b = c then { d.chains.get c with waiting := none }
        else if b < c then passedOver (d.chains.get b) else d.chains.get b := by
  obtain ⟨pre, post, hlist, hpre⟩ := chains_below c
  have hsame : (passOver pre d).chains.get c = d.chains.get c := by
    rw [passOver, PerChain.get_mapIdx, if_neg fun hc => absurd ((hpre c).1 hc) (lt_irrefl c)]
  have he : arbitrate d = ⟨(passOver pre d).chains.set c { d.chains.get c with waiting := none },
      some ⟨c, w, false, true⟩⟩ := by
    rw [arbitrate, ht, if_neg (by simp), hlist, serveWaiting_append_passed pre _ fun b hb => hbelow b ((hpre b).1 hb),
      serveWaiting_cons_sent (by rwa [hsame]) (by rwa [hsame]), hsame]
  rw [he]
  refine ⟨rfl, fun b => ?_⟩
  simp only [PerChain.get_set, passOver, PerChain.get_mapIdx, hpre]

/-- With the link free and no word that needs a transfer, the link stays free. -/
theorem arbitrate_of_passed {d : DrivePort} (ht : d.transfer = none) (h : ∀ b, PassesOver d b) :
    (arbitrate d).transfer = none ∧ ∀ b, (arbitrate d).chains.get b = passedOver (d.chains.get b) := by
  have he : arbitrate d = passOver [0, 1, 2, 3] d := by
    rw [arbitrate, ht, if_neg (by simp)]
    exact serveWaiting_append_passed [0, 1, 2, 3] [] fun b _ => h b
  rw [he]
  refine ⟨ht, fun b => ?_⟩
  rw [passOver, PerChain.get_mapIdx, if_pos]
  fin_cases b <;> decide

/-! ### Words handed over (R137) -/

theorem inTransfer_iff (d : DrivePort) (c : Chain) : inTransfer d c = true ↔ ∃ x, d.transfer = some x ∧ x.chain = c := by
  unfold inTransfer
  split
  · next h => simp [h]
  · next x h => simp [h]

/-- A word that needs a transfer is placed as pending and outstanding. -/
theorem placeWord_pending {w : DriveWord} {busy : Bool} {r : DriveRecord}
    (h : r.cut = true ∨ busy = true ∨ r.lastAck ≠ some w) :
    placeWord w busy r = { r with current := w, waiting := some w, fate := .outstanding } := by
  unfold placeWord
  rw [if_neg]
  simp only [Bool.and_eq_true, Bool.not_eq_true', decide_eq_true_iff]
  rintro ⟨⟨hc, hb⟩, ha⟩
  obtain h | h | h := h
  · rw [hc] at h; cases h
  · rw [hb] at h; cases h
  · exact h ha

theorem placeWord_known {w : DriveWord} {r : DriveRecord} (hc : r.cut = false) (ha : r.lastAck = some w) :
    placeWord w false r = { r with current := w, waiting := none, fate := .acknowledged } := by
  unfold placeWord
  rw [hc, ha]
  simp

/-- The four words placed, before the arbiter acts. -/
def placeWords (words : PerChain DriveWord) (d : DrivePort) : DrivePort :=
  { chains := d.chains.mapIdx fun c r => placeWord (words.get c) (inTransfer d c) r
    transfer := d.transfer.map fun t => { t with reports := false } }

/-- Each chain's record with the word of its decision placed. -/
theorem placeWords_decided (p : Prepared) (d : DrivePort) (c : Chain) :
    let placed := placeWords (p.chains.mapIdx fun _ d => d.verdict.word) d
    let r := d.chains.get c
    let w := (p.chains.get c).verdict.word
    ((r.cut = true ∨ (∃ x, d.transfer = some x ∧ x.chain = c) ∨ r.lastAck ≠ some w) →
      placed.chains.get c = { r with current := w, waiting := some w, fate := .outstanding }) ∧
    (r.cut = false → (∀ x, d.transfer = some x → x.chain ≠ c) → r.lastAck = some w →
      placed.chains.get c = { r with current := w, waiting := none, fate := .acknowledged }) := by
  simp only [placeWords, PerChain.get_mapIdx]
  refine ⟨fun h => placeWord_pending (h.imp_right (Or.imp_left (inTransfer_iff _ _).2)), fun hcut hfree hack => ?_⟩
  have hb : inTransfer d c = false := Bool.eq_false_iff.2 fun hb => by
    obtain ⟨x, hx, hxc⟩ := (inTransfer_iff _ _).1 hb
    exact hfree x hx hxc
  rw [hb]
  exact placeWord_known hcut hack

theorem exec_slotp_running {s : State} (hf : resetHeld s = false) (hr : s.governor.state = .running) :
    exec .slotp s = .next (prepare (tripAtPrepare s) s) := by
  show Host.Outcome.next (unlessHeld (inRunning (prepare (tripAtPrepare s))) s) = _
  rw [unlessHeld_of_free hf, inRunning, if_pos hr]

/-- The words a prepare hands over are those of the slot it leaves pending. -/
theorem prepare_drive (atTrip : Bool) (s : State) : ∃ p, (prepare atTrip s).slot.prepared = some p ∧
    (prepare atTrip s).drive.transfer = (arbitrate (placeWords (p.chains.mapIdx fun _ d => d.verdict.word) s.drive)).transfer ∧
    ∀ c, (prepare atTrip s).drive.chains.get c =
      { (arbitrate (placeWords (p.chains.mapIdx fun _ d => d.verdict.word) s.drive)).chains.get c with
        mute := ((prepare atTrip s).drive.chains.get c).mute } := by
  refine ⟨_, rfl, rfl, fun c => ?_⟩
  unfold prepare adoptPrepared assertMutes
  simp only [mapDrive_drive, PerChain.get_mapIdx]
  rfl

/-- Settles O17: the words by their placing, the arbiter by its pass over the chains. -/
theorem prepareHandsOverTheWords : Obligations.PrepareHandsOverTheWords := by
  refine ⟨fun s hf hr => ?_, fun r => rfl, rfl, fun _ _ => rfl, fun d h => if_pos h,
    fun d c w ht hw h hbelow => ?_, fun d ht h => arbitrate_of_passed ht h⟩
  · obtain ⟨p, hp, ht, hc⟩ := prepare_drive (tripAtPrepare s) s
    have he := exec_slotp_running hf hr
    generalize prepare (tripAtPrepare s) s = t at *
    refine ⟨t, p, placeWords (p.chains.mapIdx fun _ d => d.verdict.word) s.drive, ?_⟩
    exact ⟨he, hp, rfl, placeWords_decided p s.drive, ht, hc⟩
  · obtain ⟨htr, hch⟩ := arbitrate_of_sent ht hw h hbelow
    refine ⟨htr, by rw [hch, if_pos rfl], fun b hb => ?_, fun b hb => ?_⟩
    · rw [hch, if_neg (ne_of_gt hb), if_neg (not_lt.2 hb.le)]
    · rw [hch, if_neg (ne_of_lt hb), if_pos hb]
      rfl

end Sys2Proof.Machine
end

section
/-! A transfer's completion (R139, R146, R147), the results that an activation counts (R140 to R143), and the two kinds of
activation (R12 to R16). -/

namespace Sys2Proof.Machine

/-! ### A transfer's completion -/

theorem exec_transferCompletion {s : State} (hf : resetHeld s = false) (ack : Bool) :
    exec (.transferCompletion ack) s = .next (transferCompleted ack s) := by
  show Host.Outcome.next (unlessHeld (transferCompleted ack) s) = _
  rw [unlessHeld_of_free hf]

theorem transferCompleted_of_not_stopping {s : State} {x : Transfer} (hx : s.drive.transfer = some x)
    (h : s.governor.state ≠ .stopping) (ack : Bool) :
    transferCompleted ack s = { s with drive := completeTransfer ack false s.drive } := by
  simp only [transferCompleted, hx, Option.isNone_some, Bool.false_eq_true, if_false, if_neg h, decide_eq_false h]

theorem transferCompleted_of_stopping {s : State} {x : Transfer} (hx : s.drive.transfer = some x)
    (h : s.governor.state = .stopping) (ack : Bool) :
    transferCompleted ack s = enterStoppedIfQuiet (mapGovernor (fun g => { g with quietDrive := true })
      { s with drive := completeTransfer ack true s.drive }) := by
  simp only [transferCompleted, hx, Option.isNone_some, Bool.false_eq_true, if_false, h, decide_true, if_true]

/-- The link after an acknowledged word, before the arbiter acts (R139). -/
def ackedLink (x : Transfer) (d : DrivePort) : DrivePort :=
  ⟨d.chains.set x.chain { d.chains.get x.chain with
    lastAck := some x.word, fate := if x.reports then .acknowledged else (d.chains.get x.chain).fate }, none⟩

/-- The link after a dropped word, before the arbiter acts (R139). -/
def droppedLink (x : Transfer) (d : DrivePort) : DrivePort :=
  ⟨d.chains.set x.chain { d.chains.get x.chain with
    fate := if x.reports then .failed else (d.chains.get x.chain).fate }, none⟩

section
variable {d : DrivePort} {x : Transfer} (hx : d.transfer = some x)
include hx

theorem completeTransfer_acked : completeTransfer true false d = arbitrate (ackedLink x d) := by
  simp only [completeTransfer, hx]
  rfl

theorem completeTransfer_retried (hr : x.retry = false) :
    completeTransfer false false d = { d with transfer := some { x with retry := true } } := by
  simp only [completeTransfer, hx, hr]
  rfl

theorem completeTransfer_dropped (hr : x.retry = true) : completeTransfer false false d = arbitrate (droppedLink x d) := by
  simp only [completeTransfer, hx, hr]
  rfl

theorem completeTransfer_at_stop (ack : Bool) :
    completeTransfer ack true d = if ack = true then ackedLink x d else droppedLink x d := by
  cases ack
  · simp only [completeTransfer, hx]
    simp [droppedLink]
  · simp only [completeTransfer, hx]
    rfl

end

/-- In IDLE, where no word is pending, a completion moves the acknowledged word alone. -/
theorem completeTransfer_of_idle {d : DrivePort} {x : Transfer} (hx : d.transfer = some x) (hr : x.reports = false)
    (hw : NoneWaiting d) (ack : Bool) :
    (∀ c, (completeTransfer ack false d).chains.get c = { d.chains.get c with
      lastAck := if ack = true ∧ c = x.chain then some x.word else (d.chains.get c).lastAck }) ∧
    (completeTransfer ack false d).transfer =
      if ack = false ∧ x.retry = false then some { x with retry := true } else none := by
  have hacked : NoneWaiting (ackedLink x d) := NoneWaiting.set hw x.chain (by exact hw x.chain) none
  have hdropped : NoneWaiting (droppedLink x d) := NoneWaiting.set hw x.chain (by exact hw x.chain) none
  cases ack with
  | true =>
    rw [completeTransfer_acked hx, arbitrate_of_noneWaiting hacked]
    refine ⟨fun c => ?_, by simp [ackedLink]⟩
    simp only [ackedLink, PerChain.get_set, hr, true_and]
    split
    · next hc => subst hc; rfl
    · rfl
  | false =>
    cases hretry : x.retry with
    | false =>
      rw [completeTransfer_retried hx hretry]
      exact ⟨fun c => by simp, by simp⟩
    | true =>
      rw [completeTransfer_dropped hx hretry, arbitrate_of_noneWaiting hdropped]
      refine ⟨fun c => ?_, by simp [droppedLink]⟩
      simp only [droppedLink, PerChain.get_set, hr, Bool.false_eq_true, false_and, if_false]
      split
      · next hc => subst hc; rfl
      · rfl

theorem enterStoppedIfQuiet_of_stopping {s : State} (h : s.governor.state = .stopping) : enterStoppedIfQuiet s = { s with
    governor := { s.governor with state := if allQuiet s.governor then .stopped else .stopping }
    port := { s.port with ncause := if allQuiet s.governor then s.port.ncause ||| 32 else s.port.ncause } } := by
  unfold enterStoppedIfQuiet
  rw [h]
  cases hq : allQuiet s.governor with
  | true => rfl
  | false =>
    simp only [Bool.false_eq_true, and_false, if_false, ← h]

/-- Settles O18: by the acknowledge, the attempt and the governor's state. -/
theorem transferCompletionFollowsTheAcknowledge : Obligations.TransferCompletionFollowsTheAcknowledge := by
  intro s x ack hf hx
  dsimp only
  rw [exec_transferCompletion hf]
  refine ⟨fun hs => ?_, fun hs hg => ?_, fun hs => ?_⟩
  · rw [transferCompleted_of_not_stopping hx hs]
    refine ⟨fun ha => ?_, fun ha hr => ?_, fun ha hr => ?_⟩ <;> subst ha
    · rw [completeTransfer_acked hx]
      rfl
    · rw [completeTransfer_retried hx hr]
    · rw [completeTransfer_dropped hx hr]
      rfl
  · obtain ⟨-, -, -, -, hwait, -, hreports⟩ := hg
    rw [transferCompleted_of_not_stopping hx (by rw [hs]; exact nofun)]
    obtain ⟨hc, ht⟩ := completeTransfer_of_idle hx (hreports hs x hx) (hwait (by rw [hs]; exact nofun)) ack
    exact ⟨_, rfl, hc, ht, rfl⟩
  · rw [transferCompleted_of_stopping hx hs, completeTransfer_at_stop hx, enterStoppedIfQuiet_of_stopping (by exact hs)]
    simp only [allQuiet, mapGovernor_governor, mapGovernor_port, Bool.and_true]
    rfl

/-! ### Drive results (R140 to R143) -/

theorem countResult_of_ok {r : DriveRecord} (h : r.fate = .acknowledged) : countResult r =
    if r.cut then
      if r.successes + 1 = 8 then { r with failures := 0, successes := 0, cut := false }
      else { r with failures := 0, successes := r.successes + 1 }
    else { r with failures := 0 } := by
  simp only [countResult, h, WordFate.result]

theorem countResult_of_not_ok {r : DriveRecord} (h : r.fate ≠ .acknowledged) : countResult r =
    { r with failures := min 255 (r.failures + 1), successes := 0, cut := r.cut || decide (r.failures + 1 = 3) } := by
  cases hf : r.fate with
  | acknowledged => exact absurd hf h
  | outstanding => simp only [countResult, hf, WordFate.result]
  | failed => simp only [countResult, hf, WordFate.result]

/-- A result leaves the word, its fate and the line. -/
theorem countResult_kept (r : DriveRecord) : (countResult r).waiting = r.waiting ∧ (countResult r).lastAck = r.lastAck ∧
    (countResult r).current = r.current ∧ (countResult r).fate = r.fate := by
  by_cases h : r.fate = .acknowledged
  · rw [countResult_of_ok h]
    split
    · split <;> exact ⟨rfl, rfl, rfl, rfl⟩
    · exact ⟨rfl, rfl, rfl, rfl⟩
  · rw [countResult_of_not_ok h]
    exact ⟨rfl, rfl, rfl, rfl⟩

/-! ### The end of an activation -/

/-- What ends an activation, with its outcome. -/
def endActivation (o : SlotOutcome) (s : State) : State :=
  settleMutes (advanceSlot (writeOutcome o s))

theorem endActivation_slot (o : SlotOutcome) (s : State) : (endActivation o s).slot = { s.slot with
    n := s.slot.n + 1, prepared := none, watch := s.slot.watchPeriod
    lastOutcomeMissed := decide (o.status = .missed), justCut := .fill false } := by
  rw [endActivation, writeOutcome_frame]
  rfl

theorem endActivation_thermal (o : SlotOutcome) (s : State) : (endActivation o s).thermal = s.thermal :=
  (activation_end o s).1

theorem endActivation_port (o : SlotOutcome) (s : State) : (endActivation o s).port = { s.port with
    ncause := if o.status = .missed ∧ s.slot.lastOutcomeMissed = false then s.port.ncause ||| 16 else s.port.ncause } := by
  have h : (writeOutcome o s).port =
      (setCauseIf (o.status = .missed && !s.slot.lastOutcomeMissed) .miss s).port := rfl
  show (writeOutcome o s).port = _
  rw [h, setCauseIf_ncause]
  simp only [Bool.and_eq_true, decide_eq_true_iff, Bool.not_eq_true']
  rfl

theorem endActivation_drive (o : SlotOutcome) (s : State) : (endActivation o s).drive =
    { s.drive with chains := s.drive.chains.mapIdx fun c r => { r with mute := muteReason (endActivation o s) c } } := by
  have hd : (advanceSlot (writeOutcome o s)).drive = s.drive := by
    rw [show (advanceSlot (writeOutcome o s)).drive = (writeOutcome o s).drive from rfl, writeOutcome_frame]
  have hr (c : Chain) : muteReason (advanceSlot (writeOutcome o s)) c = muteReason (endActivation o s) c :=
    (muteReason_settleMutes _ c).symm
  rw [endActivation, settleMutes, mapDrive_drive, hd]
  simp only [hr]
  rfl

theorem endActivation_xm (o : SlotOutcome) (s : State) : (endActivation o s).xm =
    memStore (memStore (memStore s.xm (outcomeAddr o.tag) (outcomeBytes o)) 4 (le16 s.slot.n)) 2 (le16 (s.slot.n + 1)) := by
  have h : (endActivation o s).xm = memStore (memStore (writeOutcome o s).xm 4 (le16 (writeOutcome o s).slot.n)) 2
      (le16 ((writeOutcome o s).slot.n + 1)) := rfl
  rw [h, writeOutcome_frame]

/-- The outcome and the header's two fields are all that an activation writes (R3, R14). -/
theorem endActivation_memory {o : SlotOutcome} {s : State} (h : o.tag = s.slot.n) :
    memBytes (endActivation o s).xm (outcomeAddr s.slot.n) 64 = outcomeBytes o ∧ ActivationShown (endActivation o s) s.slot.n ∧
      MemoryKept (fun a => InRun (outcomeAddr s.slot.n) 64 a ∨ InRun 2 4 a) s (endActivation o s) := by
  have haddr : 0x0400 ≤ outcomeAddr s.slot.n := (outcome_run_bounds _ _ ⟨le_refl _, by omega⟩).1
  have hwrite := memBytes_memStore s.xm (outcomeAddr s.slot.n) (outcomeBytes o)
  rw [outcomeBytes_length] at hwrite
  rw [ActivationShown, endActivation_xm, h]
  refine ⟨?_, ⟨?_, memRead16_memStore_le16 _ _ _⟩, fun x hx => ?_⟩
  · rw [memBytes_memStore_of_outside (.inr (by simp; omega)), memBytes_memStore_of_outside (.inr (by simp; omega)), hwrite]
  · rw [memRead16_memStore_of_outside (.inr (by simp)), memRead16_memStore_le16]
  · simp only [InRun, not_or] at hx
    rw [endActivation_xm, h, memRead_memStore_of_outside (by simp; omega), memRead_memStore_of_outside (by simp; omega),
      memRead_memStore_of_outside (by simp; omega)]

theorem endActivation_frame (o : SlotOutcome) (s : State) : endActivation o s = { s with
    slot := (endActivation o s).slot, drive := (endActivation o s).drive, port := (endActivation o s).port
    xm := (endActivation o s).xm } := by
  rw [endActivation, writeOutcome_frame]
  rfl

/-- The charge of an activation by what is in force (R13, R62, R63). -/
theorem chargeChain_charged (code : Fin 4) (f : InForce) (t : ThermalRecord) :
    Charged code f.force t (chargeChain (multiplier code) f t) := by
  refine ⟨fun x hx => ?_, fun h => ?_⟩
  · simp only [chargeChain, hx]
    rfl
  · unfold chargeChain
    split
    · next r hr => exact absurd hr (h r)
    · rfl
    · rfl

/-! ### The two activations -/

/-- The state that an activation with a slot pending ends with its outcome. -/
def broughtIntoForce (p : Prepared) (s : State) : State :=
  chargeAll (bringIntoForce p s)

theorem activate_of_prepared {s : State} {p : Prepared} (h : s.slot.prepared = some p) :
    activate s = endActivation (activatedOutcome p s) (broughtIntoForce p s) := by
  unfold activate
  rw [h]
  rfl

theorem activate_of_orphan {s : State} (h : s.slot.prepared = none) :
    activate s = endActivation (orphanOutcome s) (chargeAll s) := by
  unfold activate
  rw [h]
  rfl

/-- Each drive record after an activation with a slot pending. -/
theorem activate_drive {s : State} {p : Prepared} (h : s.slot.prepared = some p) :
    (activate s).drive.transfer = s.drive.transfer ∧ ∀ c, (activate s).drive.chains.get c =
      { countResult (s.drive.chains.get c) with mute := muteReason (activate s) c } := by
  rw [activate_of_prepared h]
  generalize hu : broughtIntoForce p s = u
  have hd : u.drive = { s.drive with chains := s.drive.chains.mapIdx fun _ r => countResult r } := by
    rw [← hu]
    rfl
  rw [endActivation_drive, hd]
  refine ⟨rfl, fun c => ?_⟩
  simp only [PerChain.get_mapIdx]

/-- What is in force on each chain after an activation with a slot pending (R12). -/
theorem activate_inForce {s : State} {p : Prepared} (h : s.slot.prepared = some p) (c : Chain) :
    (activate s).slot.inForce.get c =
      takeForce (s.slot.inForce.get c) (p.chains.get c) (s.drive.chains.get c).fate.result := by
  rw [activate_of_prepared h, endActivation_slot]
  exact PerChain.get_ofFn _ c

theorem takeForce_of_muted {old : InForce} {d : Decision} {result : DriveResult} (h : d.verdict.state = .muted) :
    takeForce old d result = ⟨.muted, d.reason⟩ := by
  unfold takeForce
  cases hv : d.verdict with
  | muted _ _ => rfl
  | on r => rw [hv] at h; cases h
  | off => rw [hv] at h; cases h

theorem takeForce_of_ok {old : InForce} {d : Decision} (h : d.verdict.state ≠ .muted) :
    takeForce old d .ok = ⟨d.verdict.toForce, d.reason⟩ := by
  unfold takeForce
  cases hv : d.verdict with
  | muted _ _ => rw [hv] at h; exact absurd rfl h
  | on r => rfl
  | off => rfl

theorem takeForce_of_not_ok {old : InForce} {d : Decision} {result : DriveResult} (h : d.verdict.state ≠ .muted)
    (hr : result ≠ .ok) : takeForce old d result = old := by
  unfold takeForce
  cases hv : d.verdict with
  | muted _ _ => rw [hv] at h; exact absurd rfl h
  | on r => exact if_neg hr
  | off => exact if_neg hr

theorem result_ok_iff (f : WordFate) : f.result = .ok ↔ f = .acknowledged := by
  cases f <;> decide

theorem exec_driveLinkCut (s : State) (c : Chain) : exec (.driveLinkCut c) s =
    .next (if wouldCut s c = true then unlessHeld (inRunning activate) s else s) := rfl

theorem exec_driveLinkCutClear (s : State) (c : Chain) : exec (.driveLinkCutClear c) s =
    .next (if wouldClearCut s c = true then unlessHeld (inRunning activate) s else s) := rfl

/-- Settles O19: the counts of each chain by its result; the two inner rows by their test. -/
theorem driveResultsCountAndCut : Obligations.DriveResultsCountAndCut := by
  refine ⟨rfl, rfl, rfl, fun s p hf hr hp => ⟨activate s, exec_slota_running hf hr, fun c => ?_⟩⟩
  have hact : unlessHeld (inRunning activate) s = activate s := by
    rw [unlessHeld_of_free hf, inRunning, if_pos hr]
  dsimp only
  rw [exec_driveLinkCut, exec_driveLinkCutClear, hact, (activate_drive hp).2 c]
  simp only [wouldCut, wouldClearCut, hp, Option.isSome_some, Bool.true_and, Bool.and_eq_true, Bool.not_eq_true']
  obtain ⟨hw, hl, hc, hfate⟩ := countResult_kept (s.drive.chains.get c)
  refine ⟨hw, hl, hc, hfate, fun hok => ?_, fun hok => ?_⟩
  · simp only [countResult_of_ok hok]
    refine ⟨?_, fun hcut => ?_, fun hcut h7 => ?_, fun hcut h7 => ?_⟩
    · split
      · split <;> rfl
      · rfl
    · simp [hcut]
    · have h8 : ¬(s.drive.chains.get c).successes + 1 = 8 := by omega
      simp [hcut, h8]
    · simp [hcut, h7]
  · simp only [countResult_of_not_ok hok]
    refine ⟨trivial, trivial, fun h2 => ?_, fun h2 => ⟨?_, ?_, fun hm => ?_, fun hcut => ?_⟩⟩
    · have h3 : ¬(s.drive.chains.get c).failures + 1 = 3 := by omega
      simp [h3]
    · simp [h2]
    · refine (muteReason_iff _ c).2 (.inr (.inr (.inl ?_)))
      rw [(activate_drive hp).2 c]
      simp [countResult_of_not_ok hok, h2]
    · rw [activate_inForce hp, takeForce_of_not_ok hm fun h => hok ((result_ok_iff _).1 h)]
    · simp [hcut, h2]

/-- Settles O14: the in-force records by the results, the rest by the end of every activation. -/
theorem activationBringsThePreparedSlotIntoForce : Obligations.ActivationBringsThePreparedSlotIntoForce := by
  refine ⟨fun s p hf hr hp => ⟨activate s, exec_slota_running hf hr, fun c hm => ?_, fun c hm hok => ?_,
    fun c hm hok => ?_, ?_, fun c => ?_, by rw [activate_thermal], ?_⟩, fun r => ⟨rfl, rfl, rfl, rfl, rfl, rfl, rfl⟩,
    ⟨rfl, rfl, rfl, rfl, rfl, rfl, rfl⟩, fun _ _ => ⟨rfl, rfl, rfl, rfl, rfl, rfl, rfl⟩⟩
  · rw [activate_inForce hp, takeForce_of_muted hm]
  · rw [activate_inForce hp, hok]
    exact takeForce_of_ok hm
  · rw [activate_inForce hp, takeForce_of_not_ok hm fun h => hok ((result_ok_iff _).1 h)]
  · rw [activate_of_prepared hp, endActivation_slot]
    rfl
  · rw [activate_record]
    exact chargeChain_charged _ _ _
  · obtain ⟨htransfer, hrecords⟩ := activate_drive hp
    have hport : (activate s).port = { s.port with ncause :=
        if p.status = .missed ∧ s.slot.lastOutcomeMissed = false then s.port.ncause ||| 16 else s.port.ncause } := by
      rw [activate_of_prepared hp, endActivation_port]
      rfl
    obtain ⟨hout, hshown, hkept⟩ := endActivation_memory (o := activatedOutcome p s) (s := broughtIntoForce p s) rfl
    have hframe := endActivation_frame (activatedOutcome p s) (broughtIntoForce p s)
    have ht := endActivation_thermal (activatedOutcome p s) (broughtIntoForce p s)
    rw [← activate_of_prepared hp] at hout hshown hkept hframe ht
    refine ⟨hout, hshown, hkept, hport, htransfer, hrecords, ?_⟩
    rw [ht]
    exact hframe

/-- Settles O15: the end of every activation, with the records in force as they stand. -/
theorem orphanActivationRepeatsWhatIsInForce : Obligations.OrphanActivationRepeatsWhatIsInForce := by
  refine ⟨fun s hf hr hp => ⟨activate s, exec_slota_running hf hr, ?_, fun c => ?_, by rw [activate_thermal], ?_⟩,
    fun r => ⟨rfl, rfl, rfl, rfl, rfl, rfl⟩, fun f hf => ?_⟩
  · rw [activate_of_orphan hp, endActivation_slot, ← hp]
    rfl
  · have hforce : (activate s).slot.inForce = s.slot.inForce := by
      rw [activate_of_orphan hp, endActivation_slot]
      rfl
    rw [activate_record, hforce]
    exact chargeChain_charged _ _ _
  · obtain ⟨hout, hshown, hkept⟩ := endActivation_memory (o := orphanOutcome s) (s := chargeAll s) rfl
    have hframe := endActivation_frame (orphanOutcome s) (chargeAll s)
    have ht := endActivation_thermal (orphanOutcome s) (chargeAll s)
    have hdrive := endActivation_drive (orphanOutcome s) (chargeAll s)
    have hport : (endActivation (orphanOutcome s) (chargeAll s)).port = s.port := by
      rw [endActivation_port]
      rfl
    rw [← activate_of_orphan hp] at hout hshown hkept hframe ht hdrive hport
    refine ⟨hout, hshown, hkept, by rw [hdrive]; rfl, fun c => by rw [hdrive, PerChain.get_mapIdx]; rfl, ?_⟩
    rw [ht]
    rw [hport] at hframe
    exact hframe
  · obtain rfl | rfl := hf
    · exact ⟨rfl, rfl, rfl, rfl, rfl, fun _ => rfl, nofun⟩
    · exact ⟨rfl, rfl, rfl, rfl, rfl, nofun, fun _ => rfl⟩

end Sys2Proof.Machine
end

section
/-! The Supply Allocator's order (R51 to R56) and what the Grant Computer's stages decide (R27 to R46). -/

namespace Sys2Proof.Machine

/-! ### The failing class (R53 to R55) -/

/-- The search tries 2, 4, ..., 96 in this order. -/
theorem searchBackoff_some {rem : Nat} {ks : List Candidate} {b : Int} (h : searchBackoff rem ks = some b) :
    ∃ i : Nat, 1 ≤ i ∧ i ≤ 48 ∧ b = ((2 * i : Nat) : Int) ∧ sumAt (offered ((2 * i : Nat) : Int)) ks ≤ rem ∧
      ∀ j : Nat, 1 ≤ j → j < i → rem < sumAt (offered ((2 * j : Nat) : Int)) ks := by
  unfold searchBackoff at h
  rw [List.find?_map, Option.map_eq_some_iff] at h
  obtain ⟨i, hi, hb⟩ := h
  obtain ⟨hfit, hmem, hmin⟩ := List.find?_range_eq_some.1 hi
  simp only [Function.comp_apply, decide_eq_true_iff, Bool.not_eq_true', decide_eq_false_iff_not, not_le] at hfit hmin
  have hcast (j : Nat) : 2 * (j : Int) + 2 = ((2 * (j + 1) : Nat) : Int) := by omega
  refine ⟨i + 1, by omega, by have := List.mem_range.1 hmem; omega, by rw [← hb, hcast], by rwa [← hcast], fun j h1 hj => ?_⟩
  have := hmin (j - 1) (by omega)
  rwa [hcast, Nat.sub_add_cancel h1] at this

theorem searchBackoff_none {rem : Nat} {ks : List Candidate} (h : searchBackoff rem ks = none) (i : Nat) (h1 : 1 ≤ i)
    (h48 : i ≤ 48) : rem < sumAt (offered ((2 * i : Nat) : Int)) ks := by
  unfold searchBackoff at h
  rw [List.find?_eq_none] at h
  have := h (2 * ((i - 1 : Nat) : Int) + 2) (List.mem_map_of_mem (List.mem_range.2 (by omega)))
  rw [show 2 * ((i - 1 : Nat) : Int) + 2 = ((2 * i : Nat) : Int) by omega] at this
  simpa using this

/-- The failing class loses its highest chains, as few as needed, and the rest is whole or at the smallest backoff. -/
theorem serveFailing_order (rem : Nat) (l : List Candidate) :
    ∃ n served, n ≤ l.length ∧ serveFailing rem l = muteAll (l.take n) ++ served ∧
      (∀ m, m < n → rem < sumAt Candidate.power (l.drop m) ∧
        ∀ i, 1 ≤ i → i ≤ 48 → rem < sumAt (offered ((2 * i : Nat) : Int)) (l.drop m)) ∧
      ((sumAt Candidate.power (l.drop n) ≤ rem ∧ served = grantAll Candidate.power (l.drop n)) ∨
        (rem < sumAt Candidate.power (l.drop n) ∧ ∃ i, 1 ≤ i ∧ i ≤ 48 ∧
          sumAt (offered ((2 * i : Nat) : Int)) (l.drop n) ≤ rem ∧
          (∀ j, 1 ≤ j → j < i → rem < sumAt (offered ((2 * j : Nat) : Int)) (l.drop n)) ∧
          served = grantAll (offered ((2 * i : Nat) : Int)) (l.drop n))) := by
  induction l with
  | nil => exact ⟨0, [], le_refl _, rfl, nofun, .inl ⟨Nat.zero_le _, rfl⟩⟩
  | cons k ks ih =>
    rw [serveFailing]
    split
    · next hfit => exact ⟨0, _, Nat.zero_le _, rfl, nofun, .inl ⟨hfit, rfl⟩⟩
    · next hnot =>
      split
      · next b hb =>
        obtain ⟨i, h1, h48, rfl, hfit, hmin⟩ := searchBackoff_some hb
        exact ⟨0, _, Nat.zero_le _, rfl, nofun, .inr ⟨not_le.1 hnot, i, h1, h48, hfit, hmin, rfl⟩⟩
      · next hb =>
        obtain ⟨n, served, hn, he, hleast, hserved⟩ := ih
        refine ⟨n + 1, served, Nat.succ_le_succ hn, by rw [he]; rfl, fun m hm => ?_, hserved⟩
        cases m with
        | zero => exact ⟨not_le.1 hnot, searchBackoff_none hb⟩
        | succ m => exact hleast m (Nat.lt_of_succ_lt_succ hm)

/-! ### The classes in order (R52, R56) -/

/-- Classes that fit are whole, the first that does not is the failing one, the later ones are muted. -/
theorem serveClasses_failing (ks : List Candidate) (pre post : List Nat) (q rem : Nat)
    (hfit : (pre.map fun p => sumAt Candidate.power (ks.filter fun k => decide (k.priority = p))).sum ≤ rem)
    (hfail : rem < (pre.map fun p => sumAt Candidate.power (ks.filter fun k => decide (k.priority = p))).sum +
      sumAt Candidate.power (ks.filter fun k => decide (k.priority = q))) :
    serveClasses ks (pre ++ q :: post) rem =
      (pre.flatMap fun p => grantAll Candidate.power (ks.filter fun k => decide (k.priority = p))) ++
        (serveFailing (rem - (pre.map fun p => sumAt Candidate.power (ks.filter fun k => decide (k.priority = p))).sum)
          (ks.filter fun k => decide (k.priority = q)).reverse ++ muteAll (ks.filter fun k => decide (q < k.priority))) := by
  induction pre generalizing rem with
  | nil =>
    simp only [List.map_nil, List.sum_nil, Nat.zero_add] at hfail
    rw [List.nil_append, serveClasses, if_neg (not_le.2 hfail)]
    rfl
  | cons p pre ih =>
    simp only [List.map_cons, List.sum_cons] at hfit hfail
    rw [List.cons_append, serveClasses, if_pos (by omega), ih _ (by omega) (by omega)]
    simp only [List.flatMap_cons, List.map_cons, List.sum_cons, List.append_assoc, Nat.sub_sub]

theorem classes_at {q : Nat} (h : q ≤ 3) : ∃ post, [0, 1, 2, 3] = List.range q ++ q :: post := by
  match q, h with
  | 0, _ => exact ⟨[1, 2, 3], rfl⟩
  | 1, _ => exact ⟨[2, 3], rfl⟩
  | 2, _ => exact ⟨[3], rfl⟩
  | 3, _ => exact ⟨[], rfl⟩

/-- Settles O12: the classes by their running sum, the failing one by the search for its backoff. -/
theorem allocationServesTheClassesInOrder : Obligations.AllocationServesTheClassesInOrder := by
  intro budget ks
  refine ⟨fun h => if_pos h, fun hmore q hq hfit hfail => ?_⟩
  obtain ⟨post, hlist⟩ := classes_at hq
  dsimp only at hfit hfail ⊢
  obtain ⟨n, served, hn, he, hleast, hserved⟩ := serveFailing_order (budget - ((List.range q).map fun p =>
    sumAt Candidate.power (ks.filter fun k => decide (k.priority = p))).sum)
    (ks.filter fun k => decide (k.priority = q)).reverse
  refine ⟨n, served, hn, ?_, hleast, hserved⟩
  rw [allocate, if_neg (not_le.2 hmore), hlist, serveClasses_failing ks _ post q budget hfit hfail, he]
  simp only [List.append_assoc]
  rfl

end Sys2Proof.Machine
end

section
/-! What the Grant Computer's stages decide (R27 to R46): the candidates of stage 5, the allocator's grants as decisions. -/

namespace Sys2Proof.Machine

/-! ### Stages 1 to 5 -/

/-- An active chain with a profile that no exclusion stops goes through stages 2 to 5. -/
theorem exclusion_none_iff (s : State) (c : Chain) (profile : Nat) : exclusion s c profile = none ↔
    chainLatched s c = false ∧ (condState s (chainEntry c 0)).acting = false ∧ (s.drive.chains.get c).cut = false ∧
      (namedImage s profile).isSome = true := by
  unfold exclusion
  cases chainLatched s c
  · cases (condState s (chainEntry c 0)).acting
    · cases (s.drive.chains.get c).cut
      · cases namedImage s profile <;> simp
      · simp
    · simp
  · simp

theorem screen_of_image {s : State} {c : Chain} {q : ChainRequest} {image : ProfileImage} (ha : q.active = true)
    (he : exclusion s c q.profile = none) (hi : namedImage s q.profile = some image) :
    screen s c q = screenActive s c q image := by
  simp [screen, ha, he, hi]

/-- The candidate that stages 2 to 5 make of a chain. -/
def candidateOf (s : State) (c : Chain) (q : ChainRequest) (image : ProfileImage) : Candidate where
  chain := c
  priority := q.priority
  profile := q.profile
  clamped := clamp q.power (-200) 112
  mark := q.mark || decide (q.power < -200) || decide (112 < q.power)
  cth := chainCeiling s c image
  power := candidatePower s c (clamp q.power (-200) 112) (chainCeiling s c image)
  image := image

theorem screenActive_eq (s : State) (c : Chain) (q : ChainRequest) (image : ProfileImage) : screenActive s c q image =
    if 127 < (candidateOf s c q image).clamped - (candidateOf s c q image).power then
      .decided (.muted (some (candidateOf s c q image).clamped) (some (candidateOf s c q image).cth)) .attenRange
        (some (candidateOf s c q image).cth)
    else .candidate (candidateOf s c q image) := rfl

/-- Which chains leave stage 5 as candidates (R50). -/
theorem screen_candidate_iff (s : State) (c : Chain) (q : ChainRequest) (k : Candidate) : screen s c q = .candidate k ↔
    q.active = true ∧ exclusion s c q.profile = none ∧ namedImage s q.profile = some k.image ∧
      k = candidateOf s c q k.image ∧ k.clamped - k.power ≤ 127 := by
  constructor
  · intro h
    have h' := h
    unfold screen at h'
    cases ha : q.active with
    | false => rw [ha] at h'; cases h'
    | true =>
      cases he : exclusion s c q.profile with
      | some why => rw [ha, he] at h'; cases h'
      | none =>
        cases hi : namedImage s q.profile with
        | none => rw [ha, he, hi] at h'; cases h'
        | some image =>
          rw [screen_of_image ha he hi, screenActive_eq] at h
          split at h
          · cases h
          · next hr =>
            obtain rfl := Screened.candidate.inj h
            exact ⟨rfl, rfl, rfl, rfl, not_lt.1 hr⟩
  · rintro ⟨ha, he, hi, hk, hr⟩
    rw [screen_of_image ha he hi, screenActive_eq, ← hk, if_neg (not_lt.2 hr)]

/-! ### The candidates handed to the allocator (R50) -/

/-- The candidates of a prepare, in chain order. -/
def candidates (s : State) (qs : PerChain ChainRequest) : List Candidate :=
  (screenAll s qs).toList.filterMap Screened.toCandidate

theorem candidates_eq (s : State) (qs : PerChain ChainRequest) : candidates s qs =
    (([0, 1, 2, 3] : List Chain).map fun c => screen s c (qs.get c)).filterMap Screened.toCandidate := rfl

theorem mem_candidates_iff (s : State) (qs : PerChain ChainRequest) (k : Candidate) :
    k ∈ candidates s qs ↔ screen s k.chain (qs.get k.chain) = .candidate k := by
  rw [candidates_eq, List.mem_filterMap]
  constructor
  · rintro ⟨x, hx, hk⟩
    obtain ⟨c, -, rfl⟩ := List.mem_map.1 hx
    cases hs : screen s c (qs.get c) with
    | decided v why cth => rw [hs] at hk; cases hk
    | candidate k' =>
      rw [hs] at hk
      obtain rfl := Option.some.inj hk
      rwa [(screen_candidate hs).1]
  · intro h
    refine ⟨_, List.mem_map_of_mem (a := k.chain) ?_, by rw [h]; rfl⟩
    generalize k.chain = c
    fin_cases c <;> decide

theorem candidates_sorted (s : State) (qs : PerChain ChainRequest) :
    (candidates s qs).Pairwise fun a b => a.chain < b.chain := by
  rw [candidates_eq]
  refine List.Pairwise.filterMap Screened.toCandidate (R := fun x y => ∀ a b, x = .candidate a → y = .candidate b →
    a.chain < b.chain) ?_ ?_
  · intro x y h a ha b hb
    cases x with
    | decided v why cth => cases ha
    | candidate k =>
      cases y with
      | decided v why cth => cases hb
      | candidate k' =>
        obtain rfl := Option.some.inj ha
        obtain rfl := Option.some.inj hb
        exact h _ _ rfl rfl
  · rw [List.pairwise_map]
    have h : ([0, 1, 2, 3] : List Chain).Pairwise (· < ·) := by decide
    refine h.imp fun {c d} hcd a b ha hb => ?_
    rw [(screen_candidate ha).1, (screen_candidate hb).1]
    exact hcd

theorem candidates_nodup (s : State) (qs : PerChain ChainRequest) (budget : Nat) :
    ((allocate budget (candidates s qs)).map fun g => g.1.chain).Nodup := by
  have hks : ((candidates s qs).map Candidate.chain).Nodup :=
    List.pairwise_map.2 ((candidates_sorted s qs).imp fun h => ne_of_lt h)
  have e : ((allocate budget (candidates s qs)).map fun g => g.1.chain) =
      ((allocate budget (candidates s qs)).map Prod.fst).map Candidate.chain := by simp
  rw [e]
  obtain ⟨l, hp, hsl⟩ := (allocate_spec budget (candidates s qs)).2.1
  exact (hp.map _).nodup_iff.1 ((hsl.map Candidate.chain).nodup hks)

/-! ### Grants as decisions (R42 to R44) -/

theorem computeGrants_chain (s : State) (budget : Nat) (qs : PerChain ChainRequest) (c : Chain) :
    (computeGrants s budget qs).chains.get c =
      decide8 (allocate budget (candidates s qs)) (s.thermal.chains.get c).tj (screen s c (qs.get c)) := by
  simp only [computeGrants, screenAll, PerChain.get_mapIdx, PerChain.get_ofFn, candidates]

/-- A granted chain's candidate is the one its stages left. -/
theorem granted_candidate {s : State} {qs : PerChain ChainRequest} {budget : Nat} {k : Candidate} {o : Option Int}
    (h : (k, o) ∈ allocate budget (candidates s qs)) : screen s k.chain (qs.get k.chain) = .candidate k :=
  (mem_candidates_iff s qs k).1 ((allocate_spec budget (candidates s qs)).2.1.subset (List.mem_map_of_mem h))

/-- A candidate is granted what the allocation lists for it. -/
theorem grantOf_iff {s : State} {qs : PerChain ChainRequest} {budget : Nat} {k : Candidate}
    (hk : screen s k.chain (qs.get k.chain) = .candidate k) (g : Int) :
    grantOf (allocate budget (candidates s qs)) k.chain = some g ↔ (k, some g) ∈ allocate budget (candidates s qs) := by
  constructor
  · intro h
    obtain ⟨k', hm, hc, -⟩ := grantOf_some h
    have hk' := granted_candidate hm
    rw [hc, hk] at hk'
    rwa [Screened.candidate.inj hk']
  · intro h
    have hfind : (allocate budget (candidates s qs)).find? (fun g => decide (g.1.chain = k.chain)) = some (k, some g) := by
      have hn := candidates_nodup s qs budget
      generalize allocate budget (candidates s qs) = gs at *
      induction gs with
      | nil => cases h
      | cons x xs ih =>
        rw [List.map_cons, List.nodup_cons] at hn
        obtain rfl | h := List.mem_cons.1 h
        · exact List.find?_cons_of_pos (by simp)
        · have hx : x.1.chain ≠ k.chain := fun hx => hn.1 (by rw [hx]; exact List.mem_map_of_mem (f := fun g => g.1.chain) h)
          rw [List.find?_cons_of_neg (by simpa using hx)]
          exact ih h hn.2
    rw [grantOf, hfind]
    rfl

/-- The decision of a chain that leaves stage 5 as a candidate. -/
theorem computeGrants_candidate {s : State} {qs : PerChain ChainRequest} {k : Candidate}
    (hk : screen s k.chain (qs.get k.chain) = .candidate k) (budget : Nat) :
    (computeGrants s budget qs).chains.get k.chain =
      match grantOf (allocate budget (candidates s qs)) k.chain with
      | some g => ⟨.on (onRecord k g), onReason k g, (s.thermal.chains.get k.chain).tj⟩
      | none => ⟨.muted (some k.clamped) (some k.cth), .supply, (s.thermal.chains.get k.chain).tj⟩ := by
  rw [computeGrants_chain, hk]
  rfl

/-- The current of a chain's decision is that of what it was granted. -/
theorem computeGrants_current (s : State) (budget : Nat) (qs : PerChain ChainRequest) (c : Chain) :
    ((computeGrants s budget qs).chains.get c).verdict.current = currentOf (allocate budget (candidates s qs)) c := by
  cases hs : screen s c (qs.get c) with
  | decided v why cth =>
    rw [computeGrants_decided hs, currentOf_absent]
    · have hv := screen_decided hs
      cases v with
      | on r => exact absurd rfl (hv r)
      | off => rfl
      | muted _ _ => rfl
    · intro hm
      obtain ⟨g, hg, hc⟩ := List.mem_map.1 hm
      have := granted_candidate (k := g.1) (o := g.2) hg
      rw [hc, hs] at this
      cases this
  | candidate k =>
    obtain rfl := (screen_candidate hs).1
    rw [computeGrants_candidate hs]
    cases hg : grantOf (allocate budget (candidates s qs)) k.chain with
    | none => exact (grantOf_current _ _ hg).symm
    | some g =>
      obtain ⟨k', hm, hc, hcur⟩ := grantOf_some hg
      have hk' := granted_candidate hm
      rw [hc, hs] at hk'
      rw [hcur, Screened.candidate.inj hk']
      rfl

/-- The budget used is the current of the chains left ON (R57). -/
theorem computeGrants_used (s : State) (budget : Nat) (qs : PerChain ChainRequest) :
    let out := computeGrants s budget qs
    out.used = (out.chains.get 0).verdict.current + (out.chains.get 1).verdict.current +
      (out.chains.get 2).verdict.current + (out.chains.get 3).verdict.current := by
  simp only [computeGrants_current]
  exact usedBy_sum _ (candidates_nodup s qs budget)

/-- A grant is at most the candidate (R42, R53). -/
theorem grant_le_power {budget : Nat} {ks : List Candidate} {k : Candidate} {g : Int} (h : (k, some g) ∈ allocate budget ks)
    (hr : k.clamped - k.power ≤ 127) (hp : -200 ≤ k.power) : g ≤ k.power := by
  obtain hg | ⟨b, hb, hg⟩ := (allocate_spec budget ks).2.2 _ h g rfl
  · exact le_of_eq hg
  · unfold offered at hg
    dsimp only at hg
    omega

/-! ### Candidate power, named profiles, latched chains -/

theorem underCap_spec (s : State) (id : Fin 19) (p : Int) :
    underCap s id p ≤ p ∧ ((condState s id).acting = true → underCap s id p ≤ s.supervisor.entries[id].cap) ∧
      (underCap s id p = p ∨ (condState s id).acting = true ∧ underCap s id p = s.supervisor.entries[id].cap) := by
  unfold underCap
  split
  · next h =>
    refine ⟨min_le_left _ _, fun _ => min_le_right _ _, ?_⟩
    exact (min_choice _ _).imp_right fun hm => ⟨h, hm⟩
  · next h => exact ⟨le_refl _, fun hc => absurd hc h, .inl rfl⟩

/-- The candidate is the least of the clamped request, the floored ceiling and the caps in force (R40, R41). -/
theorem candidatePower_least (s : State) (c : Chain) (clamped cth : Int) :
    let power := candidatePower s c clamped cth
    let inForce (id : Fin 19) : Prop := (id = chainEntry c 1 ∨ id = chainEntry c 3 ∨ id.val = 16) ∧
      (condState s id = .tripped ∨ condState s id = .holdoff)
    power ≤ clamped ∧ power ≤ cth ∧ (∀ id, inForce id → power ≤ s.supervisor.entries[id].cap) ∧
      (power = clamped ∨ power = cth ∨ ∃ id, inForce id ∧ power = s.supervisor.entries[id].cap) := by
  simp only [← acting_iff]
  unfold candidatePower
  obtain ⟨hle1, hcap1, hcase1⟩ := underCap_spec s (chainEntry c 1) (min clamped cth)
  generalize underCap s (chainEntry c 1) (min clamped cth) = p1 at *
  obtain ⟨hle3, hcap3, hcase3⟩ := underCap_spec s (chainEntry c 3) p1
  generalize underCap s (chainEntry c 3) p1 = p3 at *
  obtain ⟨hle16, hcap16, hcase16⟩ := underCap_spec s 16 p3
  generalize underCap s 16 p3 = p at *
  have hmin := min_choice clamped cth
  refine ⟨by omega, by omega, ?_, ?_⟩
  · rintro id ⟨rfl | rfl | h16, ha⟩
    · exact hle16.trans (hle3.trans (hcap1 ha))
    · exact hle16.trans (hcap3 ha)
    · obtain rfl : id = 16 := Fin.ext h16
      exact hcap16 ha
  · obtain h16 | ⟨ha, h16⟩ := hcase16
    · obtain h3 | ⟨ha, h3⟩ := hcase3
      · obtain h1 | ⟨ha, h1⟩ := hcase1
        · rw [h16, h3, h1]
          exact hmin.imp_right .inl
        · exact .inr (.inr ⟨_, ⟨.inl rfl, ha⟩, by rw [h16, h3, h1]⟩)
      · exact .inr (.inr ⟨_, ⟨.inr (.inl rfl), ha⟩, by rw [h16, h3]⟩)
    · exact .inr (.inr ⟨16, ⟨.inr (.inr rfl), ha⟩, h16⟩)

theorem namedImage_slot (s : State) (j : Fin 16) : namedImage s j.val = s.store.slots[j] := by
  simp [namedImage]

theorem namedImage_above (s : State) {j : Nat} (h : 15 < j) : namedImage s j = none := by
  rw [namedImage, Vector.getElem?_eq_none (by omega)]
  rfl

/-! ### The stages together -/

/-- A chain that no exclusion stops: out of reach, granted, or muted by the allocator (R31, R40 to R44). -/
theorem computeGrants_of_image {s : State} (hi : DecisionInputs s) (budget : Nat) {qs : PerChain ChainRequest} {c : Chain}
    {image : ProfileImage} (ha : (qs.get c).active = true) (he : exclusion s c (qs.get c).profile = none)
    (him : namedImage s (qs.get c).profile = some image) :
    let k := candidateOf s c (qs.get c) image
    let d := (computeGrants s budget qs).chains.get c
    (127 < k.clamped - k.power → d.verdict = .muted (some k.clamped) (some k.cth) ∧ d.reason = .attenRange) ∧
    (k.clamped - k.power ≤ 127 →
      (d.verdict = .muted (some k.clamped) (some k.cth) ∧ d.reason = .supply) ∨
      ∃ g, g ≤ k.power ∧ k.power ≤ k.clamped ∧ d.verdict = .on (onRecord k g) ∧ d.reason = onReason k g) := by
  have hs := (screen_of_image ha he him).trans (screenActive_eq s c (qs.get c) image)
  refine ⟨fun hr => ?_, fun hr => ?_⟩
  · rw [if_pos hr] at hs
    rw [computeGrants_decided hs]
    exact ⟨rfl, rfl⟩
  · rw [if_neg (not_lt.2 hr)] at hs
    have hclamp := clamp_bounds (qs.get c).power (-200) 112 (by omega)
    have hceil := chainCeiling_range (image := image) (hi.1 c)
    have hpower := candidatePower_range (c := c) hi hclamp.1 (show -200 ≤ chainCeiling s c image by omega)
    have hd := computeGrants_candidate (k := candidateOf s c (qs.get c) image) hs budget
    rw [show (computeGrants s budget qs).chains.get c = _ from hd]
    cases hg : grantOf (allocate budget (candidates s qs)) (candidateOf s c (qs.get c) image).chain with
    | none => exact .inl ⟨rfl, rfl⟩
    | some g =>
      exact .inr ⟨g, grant_le_power ((grantOf_iff hs g).1 hg) hr hpower.1, hpower.2.1, rfl, rfl⟩

theorem excluded_of_stage1 {s : State} {c : Chain} {profile : Nat} :
    (chainLatched s c = true → exclusion s c profile = some .lock) ∧
    (chainLatched s c = false → (condState s (chainEntry c 0)).acting = true → exclusion s c profile = some .cut) ∧
    (chainLatched s c = false → (condState s (chainEntry c 0)).acting = false → (s.drive.chains.get c).cut = true →
      exclusion s c profile = some .driveLink) ∧
    (chainLatched s c = false → (condState s (chainEntry c 0)).acting = false → (s.drive.chains.get c).cut = false →
      namedImage s profile = none → exclusion s c profile = some .noProfile) := by
  unfold exclusion
  refine ⟨fun hl => ?_, fun hl hj => ?_, fun hl hj hd => ?_, fun hl hj hd hn => ?_⟩
  · rw [if_pos hl]
  · rw [hl, hj]; rfl
  · rw [hl, hj, hd]; rfl
  · rw [hl, hj, hd, hn]; rfl

/-- What an excluded chain is decided (R29). -/
theorem computeGrants_excluded {s : State} {qs : PerChain ChainRequest} {c : Chain} {why : Reason} (budget : Nat)
    (ha : (qs.get c).active = true) (he : exclusion s c (qs.get c).profile = some why) :
    ((computeGrants s budget qs).chains.get c).verdict = .muted none none ∧
      ((computeGrants s budget qs).chains.get c).reason = why ∧ (computeGrants s budget qs).ceilings.get c = none := by
  have hs := screen_excluded ha he
  rw [computeGrants_decided hs, computeGrants_ceiling, hs]
  exact ⟨rfl, rfl, rfl⟩

/-- The decision carries the present junction estimate (R39). -/
theorem computeGrants_tj (s : State) (budget : Nat) (qs : PerChain ChainRequest) (c : Chain) :
    ((computeGrants s budget qs).chains.get c).tj = (s.thermal.chains.get c).tj := by
  rw [computeGrants_chain]
  cases screen s c (qs.get c) with
  | decided v why cth => rfl
  | candidate k =>
    unfold decide8
    dsimp only
    split <;> rfl

theorem mem_candidates (s : State) (qs : PerChain ChainRequest) (k : Candidate) : k ∈ candidates s qs ↔
    (let q := qs.get k.chain;
      q.active = true ∧ chainLatched s k.chain = false ∧ (condState s (chainEntry k.chain 0)).acting = false ∧
        (s.drive.chains.get k.chain).cut = false ∧ namedImage s q.profile = some k.image ∧
        k.priority = q.priority ∧ k.profile = q.profile ∧ k.clamped = clamp q.power (-200) 112 ∧
        k.mark = (q.mark || decide (q.power < -200) || decide (112 < q.power)) ∧
        k.cth = chainCeiling s k.chain k.image ∧ k.power = candidatePower s k.chain k.clamped k.cth ∧
        k.clamped - k.power ≤ 127) := by
  rw [mem_candidates_iff, screen_candidate_iff, exclusion_none_iff]
  constructor
  · rintro ⟨ha, ⟨hl, hj, hd, -⟩, hi, hk, hr⟩
    refine ⟨ha, hl, hj, hd, hi, ?_, ?_, ?_, ?_, ?_, ?_, hr⟩
    · exact congrArg Candidate.priority hk
    · exact congrArg Candidate.profile hk
    · exact congrArg Candidate.clamped hk
    · exact congrArg Candidate.mark hk
    · exact congrArg Candidate.cth hk
    · rw [congrArg Candidate.clamped hk, congrArg Candidate.cth hk]
      exact congrArg Candidate.power hk
  · rintro ⟨ha, hl, hj, hd, hi, hprio, hprof, hclamp, hmark, hcth, hpow, hr⟩
    refine ⟨ha, ⟨hl, hj, hd, by rw [hi]; rfl⟩, hi, ?_, hr⟩
    rw [hclamp, hcth] at hpow
    cases k
    simp only [candidateOf, Candidate.mk.injEq] at *
    exact ⟨trivial, hprio, hprof, hclamp, hmark, hcth, hpow, trivial⟩

/-- Settles O9: the stages by the branches of a chain's screening, the grants by what the allocation lists. -/
theorem decisionsFollowTheStages : Obligations.DecisionsFollowTheStages := by
  refine ⟨fun s budget qs c hlaw => ?_, namedImage_slot, fun s j => namedImage_above s, fun s c => chainLatched_iff s c,
    fun _ _ => rfl, acting_iff, candidatePower_least, fun s budget qs => ?_⟩
  · obtain ⟨hlock, hcut, hlink, hprofile⟩ := excluded_of_stage1 (s := s) (c := c) (profile := (qs.get c).profile)
    refine ⟨computeGrants_tj s budget qs c, fun ha => ?_, fun ha hl => computeGrants_excluded budget ha (hlock hl),
      fun ha hl hj => computeGrants_excluded budget ha (hcut hl hj),
      fun ha hl hj hd => computeGrants_excluded budget ha (hlink hl hj hd),
      fun ha hl hj hd hn => computeGrants_excluded budget ha (hprofile hl hj hd hn), fun image ha hl hj hd hn => ?_⟩
    · have hs : screen s c (qs.get c) = .decided .off .off none := by simp [screen, ha]
      rw [computeGrants_decided hs, computeGrants_ceiling, hs]
      exact ⟨rfl, rfl, rfl⟩
    · have he : exclusion s c (qs.get c).profile = none :=
        (exclusion_none_iff s c _).2 ⟨hl, hj, hd, by rw [hn]; rfl⟩
      obtain ⟨hfar, hnear⟩ := computeGrants_of_image ((decisionLaw_iff s).1 hlaw).1 budget ha he hn
      refine ⟨by rw [computeGrants_ceiling, screen_ceiling_some ha he hn], hfar, fun hr => ?_⟩
      refine (hnear hr).imp_right ?_
      rintro ⟨g, hg, hp, hv, hwhy⟩
      refine ⟨_, hv, rfl, rfl, hg, ?_, rfl, rfl, rfl, rfl, rfl, rfl, rfl, hwhy⟩
      have : g ≤ (candidateOf s c (qs.get c) image).clamped := hg.trans hp
      exact Int.toNat_of_nonneg (by omega)
  · refine ⟨candidates s qs, candidates_sorted s qs, mem_candidates s qs, fun k hk => ?_, computeGrants_used s budget qs⟩
    have hs := (mem_candidates_iff s qs k).1 hk
    have hd := computeGrants_candidate hs budget
    have hon (g : Int) (hg : (k, some g) ∈ allocate budget (candidates s qs)) :
        ∃ r, ((computeGrants s budget qs).chains.get k.chain).verdict = .on r ∧ r.grant = g := by
      rw [(grantOf_iff hs g).2 hg] at hd
      exact ⟨onRecord k g, by rw [hd], rfl⟩
    refine ⟨hon, fun hno => ?_, fun hfit => hon _ ?_⟩
    · cases hg : grantOf (allocate budget (candidates s qs)) k.chain with
      | some g => exact absurd ((grantOf_iff hs g).1 hg) (hno g)
      | none =>
        rw [hg] at hd
        rw [hd]
        exact ⟨rfl, rfl⟩
    · rw [allocate, if_pos hfit]
      exact List.mem_map_of_mem (f := fun k : Candidate => (k, some k.power)) hk

end Sys2Proof.Machine
end

section
/-! What a prepare reads, decides and hands over (R5 to R11, R17, R46, R49). -/

namespace Sys2Proof.Machine

/-! ### The effective budget (R49) -/

theorem underBudgetEntry_spec (s : State) (id : Fin 19) (b : Nat) :
    underBudgetEntry s id b ≤ b ∧
      ((condState s id).acting = true → underBudgetEntry s id b ≤ s.supervisor.entries[id].cap.toNat) ∧
      (underBudgetEntry s id b = b ∨
        (condState s id).acting = true ∧ underBudgetEntry s id b = s.supervisor.entries[id].cap.toNat) := by
  unfold underBudgetEntry
  split
  · next h =>
    refine ⟨min_le_left _ _, fun _ => min_le_right _ _, ?_⟩
    exact (min_choice _ _).imp_right fun hm => ⟨h, hm⟩
  · next h => exact ⟨le_refl _, fun hc => absurd hc h, .inl rfl⟩

/-- The effective budget is the least of the configured one and those of the budget entries that act. -/
theorem effectiveBudget_least (s : State) :
    let acts (id : Fin 19) : Prop := (id.val = 17 ∨ id.val = 18) ∧ (condState s id = .tripped ∨ condState s id = .holdoff)
    effectiveBudget s ≤ s.supply.configured ∧
      (∀ id, acts id → effectiveBudget s ≤ s.supervisor.entries[id].cap.toNat) ∧
      (effectiveBudget s = s.supply.configured ∨
        ∃ id, acts id ∧ effectiveBudget s = s.supervisor.entries[id].cap.toNat) := by
  simp only [← acting_iff]
  unfold effectiveBudget
  obtain ⟨hle17, hcap17, hcase17⟩ := underBudgetEntry_spec s 17 s.supply.configured
  generalize underBudgetEntry s 17 s.supply.configured = b17 at *
  obtain ⟨hle18, hcap18, hcase18⟩ := underBudgetEntry_spec s 18 b17
  generalize underBudgetEntry s 18 b17 = b at *
  refine ⟨hle18.trans hle17, ?_, ?_⟩
  · rintro id ⟨h17 | h18, ha⟩
    · obtain rfl : id = 17 := Fin.ext h17
      exact hle18.trans (hcap17 ha)
    · obtain rfl : id = 18 := Fin.ext h18
      exact hcap18 ha
  · obtain h18 | ⟨ha, h18⟩ := hcase18
    · obtain h17 | ⟨ha, h17⟩ := hcase17
      · exact .inl (h18.trans h17)
      · exact .inr ⟨17, ⟨.inl rfl, ha⟩, h18.trans h17⟩
    · exact .inr ⟨18, ⟨.inr rfl, ha⟩, h18⟩

/-! ### Chain records (R1, R190) -/

theorem topThree_toNat (b : Byte) : (b.extractLsb' 5 3).toNat = b.toNat / 32 := by
  rw [BitVec.extractLsb'_toNat, Nat.shiftRight_eq_div_pow]
  have := b.isLt
  omega

theorem lowFive_toNat (b : Byte) : (b.extractLsb' 0 5).toNat = b.toNat % 32 := by
  rw [BitVec.extractLsb'_toNat]
  rfl

theorem readChainRequest_fields (m : Memory) (a : Nat) (c : Chain) :
    let q := readChainRequest m a c
    let code := memRead m (a + 3 + 4 * c.val)
    (q.active = false ↔ memRead m (a + 2 + 4 * c.val) = 0) ∧
    ((code.extractLsb' 5 3).toNat ≤ 3 → q.priority = (code.extractLsb' 5 3).toNat) ∧
    (3 < (code.extractLsb' 5 3).toNat → q.priority = 3) ∧ q.profile = (code.extractLsb' 0 5).toNat ∧
    q.power = (memRead16 m (a + 4 + 4 * c.val)).toInt ∧ q.mark = false := by
  simp only [topThree_toNat, lowFive_toNat]
  refine ⟨?_, fun h => min_eq_right h, fun h => min_eq_left h.le, rfl, rfl, rfl⟩
  simp [readChainRequest]

/-! ### Words (R10, R137) -/

theorem serveWaiting_current (cs : List Chain) (d : DrivePort) (c : Chain) :
    ((serveWaiting cs d).chains.get c).current = (d.chains.get c).current := by
  have hset (u : DrivePort) (e : Chain) (r : DriveRecord) (hr : r.current = (u.chains.get e).current) :
      ((u.chains.set e r).get c).current = (u.chains.get c).current := by
    rw [PerChain.get_set]
    split
    · next h => rw [h, hr]
    · rfl
  induction cs generalizing d with
  | nil => rfl
  | cons e cs ih =>
    rw [serveWaiting]
    split
    · exact ih d
    · split
      · rw [ih]
        exact hset d e _ rfl
      · exact hset d e _ rfl

theorem arbitrate_current (d : DrivePort) (c : Chain) : ((arbitrate d).chains.get c).current = (d.chains.get c).current := by
  unfold arbitrate
  split
  · rfl
  · exact serveWaiting_current _ d c

theorem placeWord_current (w : DriveWord) (busy : Bool) (r : DriveRecord) : (placeWord w busy r).current = w := by
  unfold placeWord
  split <;> rfl

theorem placeWords_current (words : PerChain DriveWord) (d : DrivePort) (c : Chain) :
    ((placeWords words d).chains.get c).current = words.get c := by
  rw [placeWords, PerChain.get_mapIdx, placeWord_current]

/-! ### The slot prepared -/

/-- What the stages make of the slot that a prepare leaves pending. -/
def prepareResult (s : State) : GrantResult :=
  prepareDecisions s (readIntent s.xm s.slot.n) (effectiveBudget s) (decidedSlot s).status

theorem prepare_slot (atTrip : Bool) (s : State) : (prepare atTrip s).slot = { s.slot with
    prepared := some (tripsDecided atTrip s (decidedSlot s)), missCount := (tripsDecided atTrip s (decidedSlot s)).missCount
    lastCeiling := (prepareResult s).ceilings, justCut := .fill false } := rfl

theorem decidedSlot_chains (s : State) : (decidedSlot s).chains = (prepareResult s).chains := rfl

theorem decidedSlot_used (s : State) : (decidedSlot s).budgetUsed = (prepareResult s).used := rfl

/-- What the trips of a prepare's own instant leave of the slot. -/
theorem tripsDecided_kept (atTrip : Bool) (s : State) (p : Prepared) :
    (tripsDecided atTrip s p).n = p.n ∧ (tripsDecided atTrip s p).budget = p.budget ∧
      (tripsDecided atTrip s p).status = p.status ∧ (tripsDecided atTrip s p).missCount = p.missCount := by
  rw [tripsDecided_rest]
  exact ⟨rfl, rfl, rfl, rfl⟩

theorem taken_iff (n : Half) (e : Intent) : taken n e = true ↔ e.openTag = n ∧ e.closeTag = n := by
  simp only [taken, Bool.and_eq_true, decide_eq_true_iff]

/-- Both tags equal to N take the intent (R5, R7). -/
theorem decidedSlot_of_taken {s : State} (h : taken s.slot.n (readIntent s.xm s.slot.n) = true) :
    (decidedSlot s).status = .taken ∧ (decidedSlot s).missCount = 0 ∧
      prepareResult s = computeGrants s (effectiveBudget s) (readIntent s.xm s.slot.n).chains := by
  have hs : (decidedSlot s).status = .taken := by simp only [decidedSlot, prepareStatus, h, if_true]
  refine ⟨hs, by simp only [decidedSlot, missCountAt, h, if_true], ?_⟩
  simp only [prepareResult, hs, prepareDecisions]

/-- Without a taken intent the slot is held up to the limit and missed past it (R6, R8, R9). -/
theorem decidedSlot_of_not_taken {s : State} (h : taken s.slot.n (readIntent s.xm s.slot.n) = false) :
    (decidedSlot s).missCount = min 255 (s.slot.carriedMiss + 1) ∧
    ((decidedSlot s).missCount ≤ s.slot.holdLimit → (decidedSlot s).status = .held ∧
      prepareResult s = computeGrants s (effectiveBudget s) (s.slot.inForce.mapIdx fun _ f => heldRequest f)) ∧
    (s.slot.holdLimit < (decidedSlot s).missCount → (decidedSlot s).status = .missed ∧ prepareResult s = mutedForMisses s) := by
  have hm : (decidedSlot s).missCount = min 255 (s.slot.carriedMiss + 1) := by
    simp only [decidedSlot, missCountAt, h, Bool.false_eq_true, if_false]
  have hs : (decidedSlot s).status = if (decidedSlot s).missCount ≤ s.slot.holdLimit then .held else .missed := by
    simp only [decidedSlot, prepareStatus, h, Bool.false_eq_true, if_false]
  refine ⟨hm, fun hle => ?_, fun hlt => ?_⟩
  · rw [if_pos hle] at hs
    exact ⟨hs, by simp only [prepareResult, hs, prepareDecisions]⟩
  · rw [if_neg (not_le.2 hlt)] at hs
    exact ⟨hs, by simp only [prepareResult, hs, prepareDecisions]⟩

/-! ### The lines (R10, R144, R145) -/

theorem adoptPrepared_lines (p : Prepared) (ceilings : PerChain (Option Int)) (s : State) (c : Chain) :
    ((adoptPrepared p ceilings s).drive.chains.get c).mute =
      ((s.drive.chains.get c).mute || muteReason (adoptPrepared p ceilings s) c) ∧
    ((adoptPrepared p ceilings s).drive.chains.get c).cut = (s.drive.chains.get c).cut := by
  obtain ⟨hcut, hmute⟩ := handOver_lines (p.chains.mapIdx fun _ d => d.verdict.word) s.drive c
  unfold adoptPrepared
  refine ⟨?_, ?_⟩
  · rw [muteReason_assertMutes, assertMutes_mute, hmute]
  · rw [← hcut]
    simp only [assertMutes, mapDrive_drive, PerChain.get_mapIdx]

theorem prepare_lines (atTrip : Bool) (s : State) (c : Chain) :
    ((prepare atTrip s).drive.chains.get c).mute =
      ((s.drive.chains.get c).mute || muteReason (prepare atTrip s) c) ∧
    ((prepare atTrip s).drive.chains.get c).cut = (s.drive.chains.get c).cut :=
  adoptPrepared_lines _ _ (formBudget s) c

/-- A line asserted stays so, and a chain decided MUTED has its line asserted; by the line law no other moves. -/
theorem prepare_mute (atTrip : Bool) (s : State) (c : Chain) :
    let p := tripsDecided atTrip s (decidedSlot s)
    ((p.chains.get c).verdict.state = .muted → ((prepare atTrip s).drive.chains.get c).mute = true) ∧
    ((s.drive.chains.get c).mute = true → ((prepare atTrip s).drive.chains.get c).mute = true) ∧
    (MuteLaw s → ((prepare atTrip s).drive.chains.get c).mute =
      ((s.drive.chains.get c).mute || decide ((p.chains.get c).verdict.state = .muted))) := by
  obtain ⟨hmute, hcut⟩ := prepare_lines atTrip s c
  have hp := prepare_prepared atTrip s
  have hf := prepare_inForce atTrip s
  have hg : (prepare atTrip s).governor = s.governor := by rw [prepare_frame]
  have hs : (prepare atTrip s).supervisor = s.supervisor := by rw [prepare_frame]
  have hdecided (h : ((tripsDecided atTrip s (decidedSlot s)).chains.get c).verdict.state = .muted) :
      muteReason (prepare atTrip s) c = true := (muteReason_iff _ c).2 (.inr (.inr (.inr (.inr ⟨_, hp, h⟩))))
  rw [hmute]
  refine ⟨fun h => by rw [hdecided h, Bool.or_true], fun h => by rw [h, Bool.true_or], fun hlaw => ?_⟩
  cases hm : (s.drive.chains.get c).mute with
  | true => rfl
  | false =>
    have hnone : ¬muteReason s c = true := fun hr => by
      rw [(muteLaw_iff s).1 hlaw c hr] at hm
      cases hm
    rw [Bool.false_or, Bool.false_or, Bool.eq_iff_iff, decide_eq_true_iff]
    refine ⟨fun hr => ?_, hdecided⟩
    rw [muteReason_iff, hg, hs, hcut, hf] at hr
    obtain hr | hr | hr | hr | ⟨q, hq, hv⟩ := hr
    · exact absurd ((muteReason_iff s c).2 (.inl hr)) hnone
    · exact absurd ((muteReason_iff s c).2 (.inr (.inl hr))) hnone
    · exact absurd ((muteReason_iff s c).2 (.inr (.inr (.inl hr)))) hnone
    · exact absurd ((muteReason_iff s c).2 (.inr (.inr (.inr (.inl hr))))) hnone
    · rw [hp] at hq
      rwa [Option.some.inj hq]

theorem prepare_current (atTrip : Bool) (s : State) (c : Chain) : ((prepare atTrip s).drive.chains.get c).current =
    ((tripsDecided atTrip s (decidedSlot s)).chains.get c).verdict.word := by
  obtain ⟨p, hp, -, hc⟩ := prepare_drive atTrip s
  rw [prepare_prepared] at hp
  rw [hc, Option.some.inj hp]
  exact (arbitrate_current _ c).trans ((placeWords_current _ _ c).trans (PerChain.get_mapIdx _ _ _))

/-- What a prepare makes of the slot by its status, from the state before (R5 to R9). -/
theorem prepareResult_cases (s : State) :
    let p := decidedSlot s
    let r := prepareResult s
    ((memRead16 s.xm (intentAddr s.slot.n) = s.slot.n ∧ memRead16 s.xm (intentAddr s.slot.n + 18) = s.slot.n) →
      p.status = .taken ∧ p.missCount = 0 ∧
        r = computeGrants s (effectiveBudget s) (.ofFn fun c => readChainRequest s.xm (intentAddr s.slot.n) c)) ∧
    (¬(memRead16 s.xm (intentAddr s.slot.n) = s.slot.n ∧ memRead16 s.xm (intentAddr s.slot.n + 18) = s.slot.n) →
      p.missCount = min 255 (s.slot.carriedMiss + 1) ∧
      (p.missCount ≤ s.slot.holdLimit → p.status = .held ∧
        r = computeGrants s (effectiveBudget s) (s.slot.inForce.mapIdx fun _ f => heldRequest f) ∧
        ∀ c, (s.slot.inForce.get c).force = .off ∨ (s.slot.inForce.get c).force = .muted →
          r.chains.get c = ⟨.off, .off, (s.thermal.chains.get c).tj⟩) ∧
      (s.slot.holdLimit < p.missCount → p.status = .missed ∧ r.used = 0 ∧
        ∀ c, r.chains.get c = ⟨.muted none none, .missed, (s.thermal.chains.get c).tj⟩ ∧ r.ceilings.get c = none)) := by
  refine ⟨fun h => decidedSlot_of_taken ((taken_iff _ _).2 h), fun h => ?_⟩
  have hn : taken s.slot.n (readIntent s.xm s.slot.n) = false :=
    Bool.eq_false_iff.2 fun ht => h ((taken_iff _ _).1 ht)
  obtain ⟨hm, hheld, hmissed⟩ := decidedSlot_of_not_taken hn
  refine ⟨hm, fun hle => ?_, fun hlt => ?_⟩
  · obtain ⟨hs, hr⟩ := hheld hle
    refine ⟨hs, hr, fun c hc => ?_⟩
    rw [hr]
    refine held_not_on ?_ _
    obtain hc | hc := hc <;> rw [hc] <;> exact nofun
  · obtain ⟨hs, hr⟩ := hmissed hlt
    rw [hr]
    exact ⟨hs, rfl, fun c => ⟨PerChain.get_ofFn _ c, PerChain.get_fill _ c⟩⟩

/-- Settles O8: the slot by the take test, its decisions with the trips of the same instant, the words and the lines. -/
theorem prepareFormsThePendingSlot : Obligations.PrepareFormsThePendingSlot := by
  refine ⟨fun s hf hr => ?_, fun why d => ⟨fun r h => cutDecision_of_on why h, cutDecision_of_off why, fun x y h => ?_⟩,
    effectiveBudget_least, readChainRequest_fields, fun f => ⟨fun r h => ?_, fun h => ?_⟩⟩
  · obtain ⟨hn, hbudget, hstatus, hmiss⟩ := tripsDecided_kept (tripAtPrepare s) s (decidedSlot s)
    obtain ⟨htaken, hnot⟩ := prepareResult_cases s
    refine ⟨prepare (tripAtPrepare s) s, tripsDecided (tripAtPrepare s) s (decidedSlot s), prepareResult s, ?_⟩
    refine ⟨exec_slotp_running hf hr, prepare_prepared _ s, hn, hbudget, ?_, ?_, tripsDecided_chains _ s _,
      tripsDecided_budgetUsed _ s _, prepare_slot _ s, rfl, prepare_current _ s, fun c => (prepare_mute _ s c).1,
      fun c => (prepare_mute _ s c).2.1, fun hlaw c => (prepare_mute _ s c).2.2 hlaw, prepare_frame _ s⟩
    · rw [hstatus, hmiss]
      exact htaken
    · rw [hstatus, hmiss]
      exact hnot
  · simp only [cutDecision, h]
  · simp only [heldRequest, h]
  · obtain h | h := h <;> simp only [heldRequest, h]

end Sys2Proof.Machine
end

section
/-! Scans (R120 to R127, R169) and the capture step (R162, R163, R186). -/

namespace Sys2Proof.Machine

/-! ### Conversion (R120, R123 to R125) -/

theorem scanCodes_get (levels : Vector Int 11) (ch : Fin 11) : (scanCodes levels)[ch] = pinCode ch levels[ch] :=
  vmapIdx_get pinCode levels ch

theorem pinCode_outside (ch : Fin 11) (level : Int) :
    (level < 0 → pinCode ch level = 0) ∧ (1200000 < level → pinCode ch level = 4095) := by
  unfold pinCode fullScale
  refine ⟨fun h => if_pos h, fun h => ?_⟩
  rw [if_neg (by omega), if_pos h]

/-- A channel's reading by its kind: temperature, supply voltage and current, detector. -/
theorem convert_spec (u : SensorUnit) (ch : Fin 11) (raw : BitVec 12) :
    let r := convert u ch raw
    let code : Int := clamp ((((raw.toNat : Int) - u.offset) * u.gain + 2048) / 4096) 0 4095
    r.raw = raw ∧ (r.corrected : Int) = code ∧
    (∀ h : ch.val < 5,
      r.value = clamp (u.pairs[ch.val].intercept + (code * u.pairs[ch.val].slope) / 4096) (-2560) 11200 ∧
      (r.implausible = true ↔ code < 16 ∨ 4079 < code)) ∧
    (ch.val = 5 ∨ ch.val = 6 → r.value = 2 * code) ∧ (7 ≤ ch.val → r.value = code) := by
  have hb := clamp_bounds ((((raw.toNat : Int) - u.offset) * u.gain + 2048) / 4096) 0 4095 (by omega)
  unfold convert correctedCode
  generalize hcode : clamp ((((raw.toNat : Int) - u.offset) * u.gain + 2048) / 4096) 0 4095 = code at *
  have hnat : ((code.toNat : Nat) : Int) = code := Int.toNat_of_nonneg hb.1
  dsimp only
  by_cases h5 : ch.val < 5
  · rw [dif_pos h5]
    refine ⟨rfl, hnat, fun _ => ⟨?_, ?_⟩, fun h => by omega, fun h => by omega⟩
    · simp only [temperatureOf, hnat]
    · simp only [implausibleCode, Bool.or_eq_true, decide_eq_true_iff]
      omega
  · rw [dif_neg h5]
    by_cases h7 : ch.val < 7
    · rw [if_pos h7]
      exact ⟨rfl, hnat, fun h => absurd h h5, fun _ => by dsimp only; omega, fun h => by omega⟩
    · rw [if_neg h7]
      exact ⟨rfl, hnat, fun h => absurd h h5, fun h => by omega, fun _ => hnat⟩

/-! ### Scan completions (R121, R127, R169) -/

/-- The table after a published scan. -/
def scanned (raw : Vector (BitVec 12) 11) (u : SensorUnit) : SensorUnit :=
  { u with readings := vmapIdx (fun ch r => convert u ch r) raw, valid := true }

theorem publishScan_eq (raw : Vector (BitVec 12) 11) (s : State) :
    publishScan raw s = countScan (mapSensors (scanned raw) s) := rfl

theorem countScan_of_not_init {s : State} (h : s.governor.state ≠ .init) : countScan s = s :=
  if_neg h

theorem countScan_of_init {s : State} (h : s.governor.state = .init) (h2 : s.governor.initScans ≠ 2) : countScan s =
    { s with governor := { s.governor with initScans := s.governor.initScans + 1 } } := by
  rw [countScan, if_pos h]
  exact if_neg fun h3 => h2 (Nat.succ_injective h3)

theorem countScan_third {s : State} (h : s.governor.state = .init) (h2 : s.governor.initScans = 2) : countScan s =
    { s with
      governor := { s.governor with initScans := 3, state := if s.governor.run then .running else .idle }
      slot := { s.slot with watch := if s.governor.run then s.slot.watchPeriod else s.slot.watch }
      port := { s.port with ncause := s.port.ncause ||| 1 } } := by
  rw [countScan, if_pos h]
  dsimp only
  rw [if_pos (by rw [mapGovernor_governor, h2]), leaveInit]
  simp only [mapGovernor, setCause, h2]
  cases s.governor.run <;> rfl

theorem exec_scanCompletion {s : State} (hf : resetHeld s = false) (raw : Vector (BitVec 12) 11) :
    exec (.scanCompletion raw) s = .next (scanCompleted raw s) := by
  show Host.Outcome.next (unlessHeld (scanCompleted raw) s) = _
  rw [unlessHeld_of_free hf]

theorem scanCompleted_of_scanning {s : State} (h : s.sensors.mode = .scanning) (raw : Vector (BitVec 12) 11) :
    scanCompleted raw s = countScan (mapSensors (scanned raw) s) := by
  simp only [scanCompleted, h]
  rfl

theorem exec_settlingEnd {s : State} (hf : resetHeld s = false) (hm : s.sensors.mode = .settling)
    (h0 : s.sensors.settleCount = 0) (raw : Vector (BitVec 12) 11) :
    exec (.settlingEnd raw) s = .next (scanCompleted raw s) := by
  show Host.Outcome.next (if settlingEnds s = true then unlessHeld (scanCompleted raw) s else s) = _
  rw [if_pos (by simp [settlingEnds, hm, h0]), unlessHeld_of_free hf]

theorem exec_initComplete {s : State} (hf : resetHeld s = false) (hm : s.sensors.mode = .scanning)
    (hi : s.governor.state = .init) (h2 : s.governor.initScans = 2) (raw : Vector (BitVec 12) 11) :
    exec (.initComplete raw) s = .next (scanCompleted raw s) := by
  show Host.Outcome.next (if initEnds s = true then unlessHeld (scanCompleted raw) s else s) = _
  rw [if_pos (by simp [initEnds, hm, hi, h2]), unlessHeld_of_free hf]

theorem scanned_reading (raw : Vector (BitVec 12) 11) (u : SensorUnit) (ch : Fin 11) :
    (scanned raw u).readings[ch] = convert u ch raw[ch] :=
  vmapIdx_get _ raw ch

theorem scanned_of_scanning {u : SensorUnit} (h : u.mode = .scanning) (raw : Vector (BitVec 12) 11) :
    scanned raw u = { u with
      mode := .scanning, held := (scanned raw u).held, valid := true, readings := (scanned raw u).readings } := by
  rw [← h]
  rfl

/-- Settles O45: the scan by the unit's mode, the count by the governor's state. -/
theorem scansPublishSettleAndEndInit : Obligations.ScansPublishSettleAndEndInit := by
  refine ⟨fun levels ch => by rw [scanCodes_get]; exact pinCode_outside ch _, fun s raw hf => ?_⟩
  dsimp only
  rw [exec_scanCompletion hf]
  refine ⟨fun hm hg => ?_, fun hm hc => ?_, fun hm hc hg => ?_, fun hm hg h2 => ?_, fun hm hg h2 => ?_⟩
  · rw [scanCompleted_of_scanning hm, countScan_of_not_init (s := mapSensors (scanned raw) s) hg]
    refine ⟨_, rfl, ⟨scanned_of_scanning hm raw, fun ch => ?_⟩, rfl, rfl⟩
    exact (scanned_reading raw s.sensors ch).symm ▸ convert_spec s.sensors ch raw[ch]
  · rw [scanCompleted_of_settling hm, if_neg hc]
    rfl
  · have hend : scanCompleted raw s = { s with
        sensors := scanned raw { s.sensors with mode := .scanning, held := false } } := by
      rw [scanCompleted_of_settling hm, if_pos hc, endSettling, publishScan_eq, countScan_of_not_init (by exact hg)]
      rfl
    rw [exec_settlingEnd hf hm hc, hend]
    refine ⟨_, rfl, rfl, ⟨rfl, fun ch => ?_⟩, rfl, rfl⟩
    exact (scanned_reading raw { s.sensors with mode := .scanning, held := false } ch).symm ▸
      convert_spec { s.sensors with mode := .scanning, held := false } ch raw[ch]
  · rw [scanCompleted_of_scanning hm, countScan_of_init (s := mapSensors (scanned raw) s) hg h2]
    refine ⟨_, rfl, ⟨scanned_of_scanning hm raw, fun ch => ?_⟩, rfl, rfl⟩
    exact (scanned_reading raw s.sensors ch).symm ▸ convert_spec s.sensors ch raw[ch]
  · rw [exec_initComplete hf hm hg h2, scanCompleted_of_scanning hm, countScan_third (s := mapSensors (scanned raw) s) hg h2]
    refine ⟨_, rfl, rfl, ⟨scanned_of_scanning hm raw, fun ch => ?_⟩, rfl, rfl⟩
    exact (scanned_reading raw s.sensors ch).symm ▸ convert_spec s.sensors ch raw[ch]

/-! ### The capture step (R162, R163, R174, R186) -/

theorem exec_captureStepEvent {s : State} (hf : resetHeld s = false) (atStart : Bool) :
    exec (.captureStepEvent atStart) s = .next (captureStep atStart s) := by
  show Host.Outcome.next (unlessHeld (captureStep atStart) s) = _
  rw [unlessHeld_of_free hf]

/-- The step without effect on the count: capture off, STOPPING, or the instant of a start. -/
theorem captureStep_idle {s : State} {atStart : Bool}
    (h : s.capture.on = false ∨ s.governor.state = .stopping ∨ (atStart = true ∧ s.capture.startFresh = true)) :
    captureStep atStart s = { s with capture := { s.capture with startFresh := false } } := by
  unfold captureStep
  dsimp only
  split
  · next hon =>
    obtain h | h | ⟨ha, hfresh⟩ := h
    · rw [mapCapture_capture, h] at hon
      exact absurd hon.1 nofun
    · exact absurd h hon.2
    · rw [ha, hfresh]
      rfl
  · rfl

theorem captureStep_counts {s : State} {atStart : Bool} (hon : s.capture.on = true) (hs : s.governor.state ≠ .stopping)
    (h : atStart = false ∨ s.capture.startFresh = false) : captureStep atStart s =
      countCapture { s with capture := { s.capture with startFresh := false } } := by
  unfold captureStep
  dsimp only
  rw [if_pos ⟨hon, hs⟩, if_neg]
  · rfl
  · obtain h | h := h <;> simp [h]

theorem captureStopWaits_iff (s : State) :
    captureStopWaits s = true ↔ ∃ a, s.directives.active = some a ∧ a.kind = .captureStop := by
  unfold captureStopWaits
  cases s.directives.active <;> simp

/-- The part of a chain's own source tags. -/
theorem sourceValue_chain (s : State) (tag : Byte) (c : Chain) :
    (tag.toNat = 16 + c.val → sourceValue s tag = u16 (s.thermal.chains.get c).rise) ∧
    (tag.toNat = 20 + c.val → sourceValue s tag = i16 (s.thermal.chains.get c).tj) ∧
    (tag.toNat = 24 + c.val → sourceValue s tag = powerField (s.slot.lastCeiling.get c)) ∧
    (tag.toNat = 28 + c.val → sourceValue s tag = powerField (s.slot.inForce.get c).force.grant) := by
  have hc (k : Nat) (h : tag.toNat = 4 * k + c.val) : tagChain tag = c := Fin.ext (by simp only [tagChain]; omega)
  unfold sourceValue
  refine ⟨fun h => ?_, fun h => ?_, fun h => ?_, fun h => ?_⟩
  · rw [hc 4 (by omega), dif_neg (by omega), if_pos (by omega)]
  · rw [hc 5 (by omega), dif_neg (by omega), if_neg (by omega), if_pos (by omega)]
  · rw [hc 6 (by omega), dif_neg (by omega), if_neg (by omega), if_neg (by omega), if_pos (by omega)]
  · rw [hc 7 (by omega), dif_neg (by omega), if_neg (by omega), if_neg (by omega), if_neg (by omega), if_pos (by omega)]

theorem sourceValue_budget (s : State) {tag : Byte} (h : tag.toNat = 32) : sourceValue s tag = u16 s.supply.lastBudget := by
  unfold sourceValue
  rw [dif_neg (by omega), if_neg (by omega), if_neg (by omega), if_neg (by omega), if_neg (by omega)]

/-- The record of a sensor channel (R186). -/
theorem sample_channel (s : State) {tag : Byte} {ch : Fin 11} (h : tag.toNat = ch.val) :
    (sample s tag).value = i16 s.sensors.readings[ch].value ∧ (sample s tag).held = s.sensors.held ∧
      (sample s tag).implausible = (decide (ch.val < 5) && s.sensors.readings[ch].implausible) := by
  have hlt := ch.isLt
  refine ⟨?_, ?_, ?_⟩
  · simp only [sample, sourceValue, h, hlt, dif_pos]
    rfl
  · simp only [sample, h, hlt, decide_true, Bool.true_and]
  · simp only [sample, sourceImplausible, h]
    by_cases h5 : ch.val < 5 <;> simp [h5]

/-- Settles O56: the step by its guards and the count, a sample by the ranges of its tag. -/
theorem captureStepsCountAndPrepare : Obligations.CaptureStepsCountAndPrepare := by
  refine ⟨fun s atStart hf => ?_, fun s tag => ⟨rfl, rfl, rfl, fun ch h => sample_channel s h, fun h => ⟨?_, ?_⟩,
    sourceValue_chain s tag, sourceValue_budget s⟩⟩
  · rw [exec_captureStepEvent hf]
    refine ⟨fun h => by rw [captureStep_idle h], fun hon hs hstart => ?_⟩
    rw [captureStep_counts hon hs hstart]
    refine ⟨fun hc => ?_, fun hc => ⟨fun hw => ?_, fun hn hb => ?_⟩⟩
    · rw [countCapture, if_neg (not_le.2 hc)]
      rfl
    · rw [countCapture, if_pos hc, prepareBurst, if_pos]
      · rfl
      · rw [Bool.or_eq_true]
        refine hw.imp (fun ⟨k, ha⟩ => (captureStopWaits_iff _).2 ⟨_, ha, rfl⟩) fun hb => ?_
        exact Option.isSome_iff_ne_none.2 hb
    · have hw : captureStopWaits s = false := Bool.eq_false_iff.2 fun hw => by
        obtain ⟨a, ha, hk⟩ := (captureStopWaits_iff s).1 hw
        exact hn a ha hk
      have he : countCapture { s with capture := { s.capture with startFresh := false } } = { s with
          capture := { s.capture with
            startFresh := false, count := s.capture.decimation, burst := some (s.capture.sources.map (sample s)) } } := by
        rw [countCapture, if_pos hc, prepareBurst, if_neg]
        · rfl
        · rw [Bool.or_eq_true, not_or]
          exact ⟨fun h => Bool.eq_false_iff.1 hw h, fun h => Option.isSome_iff_ne_none.1 h hb⟩
      have hdue : burstDue s = true := by simp [burstDue, hon, hs, hc, hw, hb]
      refine ⟨_, by rw [he], ?_, rfl⟩
      show Host.Outcome.next (if burstDue s = true then unlessHeld (captureStep false) s else s) = _
      rw [if_pos hdue, unlessHeld_of_free hf, captureStep_counts hon hs (.inl rfl), he]
  · simp only [sample, decide_eq_false (show ¬tag.toNat < 11 by omega), Bool.false_and]
  · simp only [sample, sourceImplausible, dif_neg (show ¬tag.toNat < 5 by omega)]

end Sys2Proof.Machine
end

section
/-! A burst's completion (R163, R174, R175, R187, R188): what lands in the ring, the stop's third indication, a CAPTURE_STOP that
waits. -/

namespace Sys2Proof.Machine

/-! ### What a completed entry writes -/

/-- A completion writes its entry's state, result and data, and the cursor's mirror (R149, R155). -/
theorem completeEntry_bytes (st : Byte) (why : ResultCode) (data : List Byte) (notify : Bool) {s u : State}
    (hc : u.directives.cursor = s.directives.cursor) :
    Lands (CompletionBytes s) u.xm (completeEntry st why data notify u).xm := by
  have hx : (completeEntry st why data notify u).xm =
      memStore (putEntry u.directives.cursor st why data u).xm 6 [(u.directives.cursor + 1).setWidth 8] := by
    simp only [completeEntry]
    rw [setCauseIf_frame]
    rfl
  rw [hx, hc]
  refine ((putEntry_written _ st why data u).mono fun x h => ?_).trans (.store fun x h1 h2 => .inr (.inr (.inr ?_)))
  · exact h.imp_right (Or.imp_right .inl)
  · simp at h2
    omega

theorem completeEntry_port (st : Byte) (why : ResultCode) (data : List Byte) (notify : Bool) (u : State) :
    (completeEntry st why data notify u).port =
      { u.port with ncause := if notify then u.port.ncause ||| 4 else u.port.ncause } := by
  simp only [completeEntry, putCursorMirror, partWrite]
  rw [setCauseIf_ncause]
  rfl

theorem scan_of_stops {s : State} (h : s.directives.active.isSome = true ∨ entryState s.xm s.directives.cursor ≠ 1) :
    scan s = s := by
  unfold scan
  split
  · rfl
  · exact scanFrom_stops h 32

/-- A completion behind which no entry is POSTED ends the scan. -/
theorem scan_completeEntry {st : Byte} {why : ResultCode} {data : List Byte} {notify : Bool} {s : State}
    (h : entryState s.xm (s.directives.cursor + 1) ≠ 1) :
    scan (completeEntry st why data notify s) = completeEntry st why data notify s := by
  unfold scan
  split
  · rfl
  · exact scanFrom_completeEntry h 32

/-! ### What lands (R187) -/

theorem take_min_length {α : Type} (l : List α) (n : Nat) : l.take (min l.length n) = l.take n := by
  obtain h | h := Nat.le_total l.length n
  · rw [min_eq_left h, List.take_length, List.take_of_length_le h]
  · rw [min_eq_right h]

/-- The four cases of R187, with the room they leave. -/
theorem landing_spec {f lost : Nat} {b : List CaptureRecord} (hb : b ≠ []) (hl : b.length ≤ 8) :
    let gap : CaptureRecord := ⟨(b.headD (gapRecord 0 0)).stamp, 255, false, false, true, BitVec.ofNat 16 lost⟩
    let put := landing f lost b
    (1024 < f → put.1 = [] ∧ put.2 = min 65535 (lost + b.length)) ∧
    (f ≤ 1024 → lost = 0 → put.1 = b.take (min b.length (1024 - f)) ∧ put.2 = b.length - put.1.length) ∧
    (f ≤ 1022 → 0 < lost →
      put.1 = gap :: b.take (min b.length (1023 - f)) ∧ put.2 = b.length - (put.1.length - 1)) ∧
    (f = 1023 ∨ f = 1024 → 0 < lost → put.1 = [] ∧ put.2 = min 65535 (lost + b.length)) ∧
    put.1.length ≤ 9 ∧ (f ≤ 1024 → f + put.1.length ≤ 1024) := by
  obtain ⟨r, rs, rfl⟩ := List.exists_cons_of_ne_nil hb
  dsimp only
  rw [take_min_length, take_min_length]
  by_cases hf : 1024 < f
  · have he : landing f lost (r :: rs) = ([], min 65535 (lost + (r :: rs).length)) := by rw [landing, if_pos hf]
    rw [he]
    refine ⟨fun _ => ⟨rfl, rfl⟩, fun h => by omega, fun h => by omega, fun h => by omega, Nat.zero_le _, fun h => by omega⟩
  · by_cases h0 : lost = 0
    · have he : landing f lost (r :: rs) =
          ((r :: rs).take (1024 - f), min 65535 ((r :: rs).drop (1024 - f)).length) := by
        rw [landing, if_neg hf, if_pos h0]
      rw [he]
      refine ⟨fun h => absurd h hf, fun _ _ => ⟨rfl, ?_⟩, fun _ h => by omega, fun _ h => by omega, ?_, fun _ => ?_⟩
      all_goals simp only [List.length_take, List.length_drop] at *
      all_goals omega
    · by_cases h22 : f ≤ 1022
      · have he : landing f lost (r :: rs) = (gapRecord r.stamp lost :: (r :: rs).take (1023 - f),
            min 65535 ((r :: rs).drop (1023 - f)).length) := by
          rw [landing, if_neg hf, if_neg h0, if_pos h22]
        rw [he]
        refine ⟨fun h => absurd h hf, fun _ h => absurd h h0, fun _ _ => ⟨rfl, ?_⟩, fun h => by omega, ?_, fun _ => ?_⟩
        all_goals simp only [List.length_take, List.length_drop, List.length_cons] at *
        all_goals omega
      · have he : landing f lost (r :: rs) = ([], min 65535 (lost + (r :: rs).length)) := by
          rw [landing, if_neg hf, if_neg h0, if_neg h22]
        rw [he]
        exact ⟨fun h => absurd h hf, fun _ h => absurd h h0, fun h => absurd h h22, fun _ _ => ⟨rfl, rfl⟩, Nat.zero_le _,
          fun h => by simpa using h⟩

/-! ### A landed burst -/

/-- What a burst puts into the ring, and the lost count after it. -/
def landed (b : List CaptureRecord) (s : State) : List CaptureRecord × Nat :=
  landing (ringFill s.capture.w (readIndex s.xm)) s.capture.lost b

theorem landBurst_capture (b : List CaptureRecord) (s : State) : (landBurst b s).capture = { s.capture with
    w := s.capture.w + BitVec.ofNat 16 (landed b s).1.length
    lost := (landed b s).2
    burst := none
    above := decide (s.capture.threshold <
      ringFill (s.capture.w + BitVec.ofNat 16 (landed b s).1.length) (readIndex s.xm)) } := by
  simp only [landBurst]
  rw [testThreshold_frame]
  simp only [putCaptureMirror, partWrite_capture, mapCapture_capture, putRecords_capture]
  rfl

theorem landBurst_port (b : List CaptureRecord) (s : State) :
    (landBurst b s).port = { s.port with ncause := landedCauses s (landBurst b s) } := by
  rw [landedCauses, landBurst_capture]
  simp only [landBurst, testThreshold, mapCapture_port, setCauseIf_ncause, putCaptureMirror, partWrite_capture,
    partWrite_port, mapCapture_capture, putRecords_capture]
  rw [putRecords_frame]
  simp only [Bool.and_eq_true, Bool.not_eq_true']
  rfl

theorem landBurst_xm (b : List CaptureRecord) (s : State) : (landBurst b s).xm =
    memStore (putRecords (landed b s).1 s).xm 0xC (le16 (landBurst b s).capture.w ++ le16 (u16 (landBurst b s).capture.lost)) := by
  rw [landBurst_capture]
  simp only [landBurst]
  rw [testThreshold_frame]
  simp only [putCaptureMirror, partWrite_xm, mapCapture_capture, putRecords_capture]
  rfl

theorem memRead16_captureMirror (m : Memory) (w v : Half) :
    memRead16 (memStore m 0xC (le16 w ++ le16 v)) 0xC = w ∧ memRead16 (memStore m 0xC (le16 w ++ le16 v)) 0xE = v := by
  have hb (i : Nat) (hi : i < 4) : memRead (memStore m 0xC (le16 w ++ le16 v)) (0xC + i) =
      (le16 w ++ le16 v).getD i 0 := memRead_memStore_of_inside (by simpa using hi)
  have h0 := hb 0 (by omega)
  rw [Nat.add_zero] at h0
  refine ⟨?_, ?_⟩
  · rw [memRead16, h0, hb 1 (by omega)]
    exact le16_join w
  · rw [memRead16, hb 2 (by omega), hb 3 (by omega)]
    exact le16_join v

/-- A burst lands by the fill and the lost count, with the header's words and the threshold test (R187, R188). -/
theorem landBurst_landed {b : List CaptureRecord} {s : State} (hb : b ≠ []) (hl : b.length ≤ 8)
    (hlost : s.capture.lost ≤ 65535) : BurstLanded b (fun _ => False) s (landBurst b s) := by
  obtain ⟨hover, hfits, hgap, hfull, hnine, hroom⟩ :=
    landing_spec (f := ringFill s.capture.w (readIndex s.xm)) (lost := s.capture.lost) hb hl
  have hput : (landed b s).1.length ≤ 1024 := le_trans hnine (by omega)
  have hcap := landBurst_capture b s
  have hw : (landBurst b s).capture.w = s.capture.w + BitVec.ofNat 16 (landed b s).1.length := by rw [hcap]
  have hlost' : (landBurst b s).capture.lost = (landed b s).2 := by rw [hcap]
  have hlt : (landBurst b s).capture.lost < 65536 := by
    rw [hlost']
    exact landing_lost_lt b (by omega)
  have hx := landBurst_xm b s
  obtain ⟨hmw, hml⟩ := memRead16_captureMirror (putRecords (landed b s).1 s).xm (landBurst b s).capture.w
    (u16 (landBurst b s).capture.lost)
  have hfill : (s.capture.w - readIndex s.xm).toNat ≤ 1024 →
      ((landBurst b s).capture.w - readIndex s.xm).toNat ≤ 1024 := by
    intro hf
    have := hroom hf
    rw [hw]
    simp only [ringFill, landed, BitVec.toNat_sub, BitVec.toNat_add, BitVec.toNat_ofNat] at *
    omega
  refine ⟨(landed b s).1, ?_, ?_, ?_, ?_, hw, fun i hi => ?_, ?_, ?_, fun x hx' => ?_, hfill, ?_⟩
  · rw [hlost']
    exact hover
  · rw [hlost']
    exact hfits
  · rw [hlost']
    exact hgap
  · rw [hlost']
    exact hfull
  · rw [hx, memBytes_memStore_of_outside (.inr (by simp; omega)), putRecords_bytes _ _ hput i hi]
  · rw [hx, hmw]
  · rw [hx, hml, u16, BitVec.toNat_ofNat]
    omega
  · simp only [not_or, not_exists, not_and] at hx'
    obtain ⟨-, h12, hring⟩ := hx'
    rw [hx, memRead_memStore_of_outside (by simp only [InRun] at h12; simp; omega), putRecords_kept _ _ _ hring]
  · rw [hcap]
    exact decide_eq_true_iff

/-- The landing stands while nothing touches the ring, the header's words and the unit's own W, count and test. -/
theorem BurstLanded.after {b : List CaptureRecord} {s u t : State} {also : Nat → Prop}
    (h : BurstLanded b (fun _ => False) s u) (hw : t.capture.w = u.capture.w) (hl : t.capture.lost = u.capture.lost)
    (ha : t.capture.above = u.capture.above) (hk : ∀ x, ¬also x → memRead t.xm x = memRead u.xm x)
    (hfar : ∀ x, also x → x < 0x2000 ∧ ¬InRun 0x000C 4 x) : BurstLanded b also s t := by
  obtain ⟨put, hover, hfits, hgap, hfull, hput, hbytes, hmw, hml, hkept, hroom, habove⟩ := h
  have hhead (x : Nat) (hx : 0xC ≤ x ∧ x < 0x10) : memRead t.xm x = memRead u.xm x :=
    hk x fun hc => (hfar x hc).2 ⟨hx.1, by omega⟩
  refine ⟨put, ?_, ?_, ?_, ?_, by rw [hw, hput], fun i hi => ?_, ?_, ?_, fun x hx => ?_, by rw [hw]; exact hroom,
    by rw [hw, ha]; exact habove⟩
  · rwa [hl]
  · rwa [hl]
  · rwa [hl]
  · rwa [hl]
  · rw [← hbytes i hi]
    refine List.map_congr_left fun j _ => hk _ fun hc => ?_
    have := (hfar _ hc).1
    omega
  · rw [hw, ← hmw, memRead16, memRead16, hhead _ (by omega), hhead _ (by omega)]
  · rw [hl, ← hml, memRead16, memRead16, hhead _ (by omega), hhead _ (by omega)]
  · simp only [not_or] at hx
    rw [hk x hx.1]
    exact hkept x (by simpa only [false_or, not_or] using hx.2)

/-! ### The end of a burst's completion (R163, R174) -/

theorem exec_burstCompletion {s : State} (hf : resetHeld s = false) {b : List CaptureRecord}
    (hb : s.capture.burst = some b) : exec .burstCompletion s = .next (afterBurst (landBurst b s)) := by
  show Host.Outcome.next (unlessHeld burstCompleted s) = _
  rw [unlessHeld_of_free hf, burstCompleted, hb]

theorem quietAfterBurst_of_not_stopping {s : State} (h : s.governor.state ≠ .stopping) : quietAfterBurst s = s :=
  if_neg h

/-- In STOPPING the Capture Unit's indication is raised, and with the third one STOPPED is entered. -/
theorem quietAfterBurst_of_stopping {s : State} (h : s.governor.state = .stopping) : quietAfterBurst s = { s with
    capture := { s.capture with on := false }
    governor := { s.governor with
      quietCapture := true, state := if s.governor.quietSlot && s.governor.quietDrive then .stopped else .stopping }
    port := { s.port with ncause :=
      if s.governor.quietSlot && s.governor.quietDrive then s.port.ncause ||| 32 else s.port.ncause } } := by
  rw [quietAfterBurst, if_pos h, enterStoppedIfQuiet_of_stopping (by exact h)]
  simp only [allQuiet, mapGovernor_governor, Bool.and_true]
  rfl

theorem afterBurst_of_no_stop {s : State} (h : ∀ a, s.directives.active = some a → a.kind ≠ .captureStop) :
    afterBurst s = quietAfterBurst s := by
  have hw : captureStopWaits s = false := Bool.eq_false_iff.2 fun hw => by
    obtain ⟨a, ha, hk⟩ := (captureStopWaits_iff s).1 hw
    exact h a ha hk
  unfold afterBurst
  dsimp only
  rw [hw]
  split <;> rfl

theorem afterBurst_of_stop {s : State} {notify : Bool} (ha : s.directives.active = some ⟨.captureStop, none, notify⟩)
    (hn : entryState s.xm (s.directives.cursor + 1) ≠ 1) :
    afterBurst s = completeEntry 3 .ok [] notify (stopCapture (quietAfterBurst s)) := by
  have hw : captureStopWaits s = true := (captureStopWaits_iff s).2 ⟨_, ha, rfl⟩
  have hd : (quietAfterBurst s).directives = s.directives := by rw [quietAfterBurst_frame]
  have hx : (quietAfterBurst s).xm = s.xm := by rw [quietAfterBurst_frame]
  unfold afterBurst
  dsimp only
  rw [hw, hd, ha]
  refine scan_completeEntry ?_
  show entryState (quietAfterBurst s).xm ((quietAfterBurst s).directives.cursor + 1) ≠ 1
  rw [hd, hx]
  exact hn

/-- Another entry's state is not touched by a burst. -/
theorem landBurst_entryState (b : List CaptureRecord) (s : State) (e : BitVec 5) :
    entryState (landBurst b s).xm e = entryState s.xm e := by
  have he := entryAddr_bounds e
  have hring : ∀ i, i < (landed b s).1.length →
      ¬InRun (0x2000 + 8 * ((s.capture.w + BitVec.ofNat 16 i).toNat % 1024)) 8 (entryAddr e) := fun i _ h => by
    have := h.1
    omega
  rw [entryState, landBurst_xm, memRead_memStore_of_outside (.inr (by simp; omega)), putRecords_kept _ _ _ hring, entryState]

theorem completionBytes_far {s : State} {x : Nat} (h : CompletionBytes s x) : x < 0x2000 ∧ ¬InRun 0x000C 4 x := by
  have := entryAddr_bounds s.directives.cursor
  simp only [CompletionBytes, InRun] at *
  omega

/-- A CAPTURE_STOP that waited completes DONE behind the burst's landing. -/
theorem completeEntry_after_burst {s u : State} {notify : Bool} {causes : BitVec 6} (hd : u.directives = s.directives)
    (hp : u.port = { s.port with ncause := causes }) :
    CompletedOver causes s (completeEntry 3 .ok [] notify u) notify 3 .ok [] ∧
      (completeEntry 3 .ok [] notify u).port.reading = s.port.reading ∧
      completeEntry 3 .ok [] notify u = { u with
        directives := (completeEntry 3 .ok [] notify u).directives
        port := (completeEntry 3 .ok [] notify u).port, xm := (completeEntry 3 .ok [] notify u).xm } := by
  obtain ⟨hshows, hdir, hmirror, -⟩ := completeEntry_completed 3 .ok [] notify s u (by rw [hd])
  have hport := completeEntry_port 3 .ok [] notify u
  rw [hp] at hport
  refine ⟨⟨hshows, hdir, hmirror, by rw [hport]⟩, by rw [hport], ?_⟩
  have hdu : (completeEntry 3 .ok [] notify u).directives = ⟨u.directives.cursor + 1, none⟩ := by rw [completeEntry_frame]
  rw [hdu]
  exact completeEntry_frame 3 .ok [] notify u

/-- Settles O57: the landing by the cases of R187, the waiting CAPTURE_STOP by its completion. -/
theorem burstsLandByTheFill : Obligations.BurstsLandByTheFill := by
  intro s b hf hs hb hne hlen hlost
  have hland := landBurst_landed hne hlen hlost
  have hframe := landBurst_frame b s
  have hg : (landBurst b s).governor = s.governor := by rw [hframe]
  have hd : (landBurst b s).directives = s.directives := by rw [hframe]
  have hquiet : quietAfterBurst (landBurst b s) = landBurst b s :=
    quietAfterBurst_of_not_stopping (by rw [hg]; exact hs)
  have hcap := landBurst_capture b s
  have hport := landBurst_port b s
  rw [exec_burstCompletion hf hb]
  refine ⟨fun hn => ?_, fun notify ha hnext => ?_⟩
  · rw [afterBurst_of_no_stop (by rw [hd]; exact hn), hquiet]
    exact ⟨_, rfl, hland, hport, by rw [hcap], hframe⟩
  · rw [afterBurst_of_stop (by rw [hd]; exact ha) (by rw [hd, landBurst_entryState]; exact hnext), hquiet]
    generalize landBurst b s = u at *
    have hbytes := completeEntry_bytes 3 .ok [] notify (s := s) (u := stopCapture u)
      (show u.directives.cursor = s.directives.cursor by rw [hd])
    obtain ⟨hdone, hreading, ht⟩ := completeEntry_after_burst (s := s) (u := stopCapture u) (notify := notify) hd hport
    generalize completeEntry 3 .ok [] notify (stopCapture u) = t at *
    have htc : t.capture = { u.capture with on := false } := by rw [ht]; rfl
    have habove : t.capture.above = u.capture.above := by rw [htc]
    have hcauses : landedCauses s t = landedCauses s u := by rw [landedCauses, landedCauses, habove]
    rw [← hcauses] at hdone
    refine ⟨t, rfl, hland.after (by rw [htc]) (by rw [htc]) habove hbytes.kept fun x => completionBytes_far, hdone,
      hreading, by rw [htc, hcap], ?_⟩
    rw [hframe] at ht
    refine ht.trans ?_
    rw [htc]
    rfl

/-! ### The third quiet indication (R175) -/

theorem exec_enterStopped {s : State} (hf : resetHeld s = false) (ack : Bool) :
    exec (.enterStopped ack) s = .next (enterStopped ack s) := by
  show Host.Outcome.next (unlessHeld (enterStopped ack) s) = _
  rw [unlessHeld_of_free hf]

theorem enterStopped_of_transfer {s : State} (hs : s.governor.state = .stopping) (hslot : s.governor.quietSlot = true)
    (hdrive : s.governor.quietDrive = false) (hcap : s.governor.quietCapture = true) (ack : Bool) :
    enterStopped ack s = transferCompleted ack s := by
  rw [enterStopped, if_pos ⟨hs, hslot⟩, hdrive, hcap]
  rfl

theorem enterStopped_of_burst {s : State} (hs : s.governor.state = .stopping) (hslot : s.governor.quietSlot = true)
    (hdrive : s.governor.quietDrive = true) (hcap : s.governor.quietCapture = false) (ack : Bool) :
    enterStopped ack s = burstCompleted s := by
  rw [enterStopped, if_pos ⟨hs, hslot⟩, hdrive, hcap]
  rfl

/-- Where no completion would raise the third indication, nothing happens. -/
theorem enterStopped_idle {s : State} (h : s.governor.state ≠ .stopping ∨ s.governor.quietSlot = false ∨
    (s.governor.quietDrive = false ∧ s.governor.quietCapture = false)) (ack : Bool) : enterStopped ack s = s := by
  unfold enterStopped
  split
  · next hc =>
    obtain h | h | ⟨hd, hq⟩ := h
    · exact absurd hc.1 h
    · rw [hc.2] at h
      cases h
    · rw [hd, hq]
      rfl
  · rfl

/-- What holds of the state in which a burst's completion in STOPPING raises the Capture Unit's indication. -/
theorem quietAfterBurst_landed {s : State} (hs : s.governor.state = .stopping) (b : List CaptureRecord) :
    let u := quietAfterBurst (landBurst b s)
    let third : Prop := s.governor.quietSlot = true ∧ s.governor.quietDrive = true
    u.capture = { (landBurst b s).capture with on := false } ∧ u.directives = s.directives ∧ u.xm = (landBurst b s).xm ∧
      u.governor = { s.governor with quietCapture := true, state := u.governor.state } ∧
      (third → u.governor.state = .stopped) ∧ (¬third → u.governor.state = .stopping) ∧
      u.port = { s.port with ncause :=
        if u.governor.state = .stopped then landedCauses s u ||| 32 else landedCauses s u } ∧
      u = { s with capture := u.capture, governor := u.governor, port := u.port, xm := u.xm } := by
  have hframe := landBurst_frame b s
  have hport := landBurst_port b s
  generalize landBurst b s = v at *
  have hg : v.governor = s.governor := by rw [hframe]
  have hd : v.directives = s.directives := by rw [hframe]
  have hq := quietAfterBurst_of_stopping (s := v) (by rw [hg, hs])
  rw [hg] at hq
  dsimp only
  generalize quietAfterBurst v = u at *
  have hcap : u.capture = { v.capture with on := false } := by rw [hq]
  have hcauses : landedCauses s u = landedCauses s v := by rw [landedCauses, landedCauses, hcap]
  refine ⟨hcap, by rw [hq, hd], by rw [hq], by rw [hq], fun h => ?_, fun h => ?_, ?_, ?_⟩
  · rw [hq]
    simp [h.1, h.2]
  · rw [hq]
    refine if_neg fun hc => h ?_
    rwa [Bool.and_eq_true] at hc
  · rw [hcauses, hq, hport]
    dsimp only
    by_cases h : (s.governor.quietSlot && s.governor.quietDrive) = true
    · rw [if_pos h, if_pos (if_pos h)]
    · rw [if_neg h, if_neg h, if_neg nofun]
  · refine hq.trans ?_
    rw [hframe, hq]

/-- Settles O25: a transfer's and a burst's completion as the third indication, by what each does in STOPPING. -/
theorem thirdQuietIndicationEntersStopped : Obligations.ThirdQuietIndicationEntersStopped := by
  refine ⟨fun s x ack hf hs hslot hdrive hcap hx => ?_, fun s b hf hs hb hne hlen hlost => ?_, fun s ack h => ?_⟩
  · have he : transferCompleted ack s = { s with
        drive := completeTransfer ack true s.drive
        governor := { s.governor with state := .stopped, quietDrive := true }
        port := { s.port with ncause := s.port.ncause ||| 32 } } := by
      rw [transferCompleted_of_stopping hx hs, enterStoppedIfQuiet_of_stopping (by exact hs)]
      simp only [allQuiet, mapGovernor_governor, hslot, hcap]
      rfl
    rw [exec_enterStopped hf, exec_transferCompletion hf, enterStopped_of_transfer hs hslot hdrive hcap, he]
    exact ⟨_, rfl, rfl, rfl, completeTransfer_stopping ack s.drive, rfl, rfl⟩
  · have hland := landBurst_landed hne hlen hlost
    have hlc := landBurst_capture b s
    have hentry := landBurst_entryState b s
    obtain ⟨hcap, hd, hx, hgov, hthird, hnot, hport, hframe⟩ := quietAfterBurst_landed hs b
    have hstop (ack : Bool) (h : (s.governor.quietSlot = true ∧ s.governor.quietDrive = true) ∧
        s.governor.quietCapture = false) : exec (.enterStopped ack) s = exec .burstCompletion s := by
      rw [exec_enterStopped hf, enterStopped_of_burst hs h.1.1 h.1.2 h.2, burstCompleted, hb, exec_burstCompletion hf hb]
    rw [exec_burstCompletion hf hb] at hstop ⊢
    have hdv : (landBurst b s).directives = s.directives := by rw [landBurst_frame]
    refine ⟨fun hn => ?_, fun notify ha hnext => ?_⟩
    · rw [afterBurst_of_no_stop (by rw [hdv]; exact hn)] at hstop ⊢
      generalize landBurst b s = v at *
      generalize quietAfterBurst v = u at *
      refine ⟨u, rfl, hland.after (by rw [hcap]) (by rw [hcap]) (by rw [hcap]) (fun x _ => by rw [hx]) nofun,
        ⟨by rw [hcap, hlc], hgov, hthird, hnot, fun h ack => hstop ack h⟩, hport, hframe⟩
    · rw [afterBurst_of_stop (by rw [hdv]; exact ha) (by rw [hdv, hentry]; exact hnext)] at hstop ⊢
      generalize landBurst b s = v at *
      generalize quietAfterBurst v = u at *
      have hbytes := completeEntry_bytes 3 .ok [] notify (s := s) (u := stopCapture u)
        (show u.directives.cursor = s.directives.cursor by rw [hd])
      obtain ⟨hdone, hreading, ht⟩ := completeEntry_after_burst (s := s) (u := stopCapture u) (notify := notify) hd hport
      generalize completeEntry 3 .ok [] notify (stopCapture u) = t at *
      have htu : t.capture = { u.capture with on := false } := by rw [ht]; rfl
      have htc : t.capture = { v.capture with on := false } := by rw [htu, hcap]
      have htg : t.governor = u.governor := by rw [ht]; rfl
      have habove : t.capture.above = u.capture.above := by rw [htc, hcap]
      have hcauses : landedCauses s t = landedCauses s u := by rw [landedCauses, landedCauses, habove]
      rw [← hcauses, ← htg] at hdone
      rw [← htg] at hgov hthird hnot
      refine ⟨t, rfl, hland.after (by rw [htc]) (by rw [htc]) (by rw [htc]) (fun x hc => ?_) fun x => completionBytes_far,
        ⟨by rw [htc, hlc], hgov, hthird, hnot, fun h ack => hstop ack h⟩, hdone, hreading, ?_⟩
      · rw [hbytes.kept x hc]
        show memRead u.xm x = _
        rw [hx]
      · rw [hframe] at ht
        refine ht.trans ?_
        rw [htu, htg]
        rfl
  · show Host.Outcome.next (unlessHeld (enterStopped ack) s) = _
    unfold unlessHeld
    rw [enterStopped_idle h, ite_self]

end Sys2Proof.Machine
end

section
/-! A directive's row (log entry 2): the host posts it at the cursor of a part that is ready for it, and the scan takes it at
once. What the take answers, brought into the list, is one lemma for each of DONE, FAILED and ACTIVE. -/

namespace Sys2Proof.Machine

/-! ### The posted part -/

/-- The part once a row's entry has landed: exchange memory with the post in it, the read in progress ended. -/
def postedOver (s : State) (x : Memory) : State :=
  { s with port := { s.port with reading := none }, xm := x }

/-- The argument bytes that a row's entry shows. -/
def rowArgs (a : List Byte) : List Byte :=
  (a ++ zeros 20).take 20

theorem postAtCursor_postedOver (kind : Byte) (notify : Bool) (a : List Byte) (s : State) :
    postAtCursor kind notify a (endReading s) = postedOver s (postAtCursor kind notify a (endReading s)).xm := by
  rw [postAtCursor_frame]
  rfl

theorem arg8_rowArgs {a : List Byte} {i : Nat} (h : i < 24) : arg8 (rowArgs a) i = (a.getD (i - 4) 0).toNat := by
  rw [arg8, rowArgs, take20_getD _ _ (by omega)]

theorem arg16_rowArgs {a : List Byte} {i : Nat} (h : i < 23) :
    arg16 (rowArgs a) i = a.getD (i - 3) 0 ++ a.getD (i - 4) 0 := by
  rw [arg16, rowArgs, take20_getD _ _ (by omega), take20_getD _ _ (by omega)]

/-- The next entry's bytes are not the cursor's. -/
theorem entryAddr_next_far (e : BitVec 5) : ¬InRun (entryAddr e) 32 (entryAddr (e + 1)) := by
  have : (e + 1).toNat ≠ e.toNat := fun h => cursor_next_ne e (BitVec.eq_of_toNat_eq h)
  simp only [InRun, entryAddr]
  omega

/-! ### A completion over a working block's answer -/

/-- What a completion shows, wherever the owning block's work left directives alone and did not write the next entry. -/
theorem completeEntry_over {s u : State} {W : Nat → Prop} {causes : BitVec 6} {reading : Option ReadTransaction} (st : Byte)
    (why : ResultCode) (data : List Byte) (notify : Bool) (hd : u.directives = s.directives)
    (hp : u.port = { s.port with reading := reading, ncause := causes }) (hx : Lands W s.xm u.xm) :
    let t := completeEntry st why data notify u
    CompletedOver causes s t notify st why data ∧ t.port.reading = reading ∧
      MemoryKept (fun x => CompletionBytes s x ∨ W x) s t ∧
      t = { u with directives := t.directives, port := t.port, xm := t.xm } := by
  obtain ⟨hshows, hdir, hmirror, -⟩ := completeEntry_completed st why data notify s u (by rw [hd])
  have hport := completeEntry_port st why data notify u
  rw [hp] at hport
  have hbytes := completeEntry_bytes st why data notify (s := s) (u := u) (by rw [hd])
  refine ⟨⟨hshows, hdir, hmirror, by rw [hport]⟩, by rw [hport], fun x h => ?_, ?_⟩
  · rw [hbytes.kept x fun hc => h (.inl hc), hx.kept x fun hw => h (.inr hw)]
  · have hdu : (completeEntry st why data notify u).directives = ⟨u.directives.cursor + 1, none⟩ := by rw [completeEntry_frame]
    rw [hdu]
    exact completeEntry_frame st why data notify u

theorem completionBytes_entryOrMirror {s : State} {x : Nat} (h : CompletionBytes s x) : EntryOrMirror s x := by
  simp only [CompletionBytes, EntryOrMirror, InRun] at *
  omega

/-! ### The three answers of a take -/

section Row
variable {s : State} {c : Instr} {kind : Byte} {notify : Bool} {a : List Byte} {data : List Byte}

/-- A refused row. -/
theorem row_failed {why : ResultCode} (hrow : exec c s = .next (issue kind notify a s))
    (h : ReadyForOne s)
    (ht : ∀ x, takeDirective kind (rowArgs a) (postedOver s x) = .failed (postedOver s x) why data) :
    ∃ t, exec c s = .next t ∧
      CompletedAtCursor s t notify 4 why data ∧ MemoryKept (EntryOrMirror s) s t ∧
      t = { s with directives := t.directives, port := t.port, xm := t.xm } := by
  have hx := postAtCursor_lands kind notify a (endReading s)
  have hn := postAtCursor_next h.2.2.2.2 kind notify a
  have he := issue_failed h (u := postedOver s (postAtCursor kind notify a (endReading s)).xm) (notify := notify) (a := a)
    (kind := kind) (by rw [postAtCursor_postedOver]; exact ht _) rfl hn
  obtain ⟨hc, hr, hm, hf⟩ := completeEntry_over (s := s)
    (u := postedOver s (postAtCursor kind notify a (endReading s)).xm) 4 why data notify rfl rfl hx
  refine ⟨_, hrow.trans (congrArg _ he), ⟨hc, hr⟩, fun x hx' => hm x ?_, hf⟩
  rintro (hb | hb)
  · exact hx' (completionBytes_entryOrMirror hb)
  · exact hx' (.inl hb)

/-- A row taken and done at once: the owning block's answer `u` over the posted memory, with what it writes there. -/
theorem row_done {W : Nat → Prop} {causes : BitVec 6} {u : Memory → State}
    (hrow : exec c s = .next (issue kind notify a s)) (h : ReadyForOne s)
    (ht : ∀ x, takeDirective kind (rowArgs a) (postedOver s x) = .done (u x) data)
    (hd : ∀ x, (u x).directives = s.directives)
    (hp : ∀ x, (u x).port = { s.port with reading := none, ncause := causes })
    (hx : ∀ x, Lands W x (u x).xm) (hW : ¬W (entryAddr (s.directives.cursor + 1))) :
    ∃ x t, exec c s = .next t ∧
      Lands (InRun (entryAddr s.directives.cursor) 32) s.xm x ∧
      CompletedOver causes s t notify 3 .ok data ∧ t.port.reading = none ∧
      MemoryKept (fun a => EntryOrMirror s a ∨ W a) s t ∧
      Lands (CompletionBytes s) (u x).xm t.xm ∧
      t = { u x with directives := t.directives, port := t.port, xm := t.xm } := by
  have hl := postAtCursor_lands kind notify a (endReading s)
  have hn := postAtCursor_next h.2.2.2.2 kind notify a
  have he := issue_done h (notify := notify) (a := a) (by rw [postAtCursor_postedOver]; exact ht _) (hd _)
    (by rwa [entryState, (hx _).kept _ hW])
  generalize (postAtCursor kind notify a (endReading s)).xm = x at hl hn he
  obtain ⟨hc, hr, hm, hf⟩ := completeEntry_over (s := s) (W := fun y => InRun (entryAddr s.directives.cursor) 32 y ∨ W y)
    3 .ok data notify (hd x) (hp x) ((hl.mono fun _ => .inl).trans ((hx x).mono fun _ => .inr))
  refine ⟨x, _, hrow.trans (congrArg _ he), hl, hc, hr, fun y hy => hm y ?_, completeEntry_bytes _ _ _ _ (by rw [hd]), hf⟩
  rintro (hb | hb | hb)
  · exact hy (.inl (completionBytes_entryOrMirror hb))
  · exact hy (.inl (.inl hb))
  · exact hy (.inr hb)

/-- A row taken and done at once by a block that writes no exchange memory and sets no cause. -/
theorem row_done_quiet {u : Memory → State}
    (hrow : exec c s = .next (issue kind notify a s)) (h : ReadyForOne s)
    (ht : ∀ x, takeDirective kind (rowArgs a) (postedOver s x) = .done (u x) data)
    (hd : ∀ x, (u x).directives = s.directives) (hp : ∀ x, (u x).port = { s.port with reading := none })
    (hx : ∀ x, (u x).xm = x) :
    ∃ x t, exec c s = .next t ∧ CompletedAtCursor s t notify 3 .ok data ∧ MemoryKept (EntryOrMirror s) s t ∧
      t = { u x with directives := t.directives, port := t.port, xm := t.xm } := by
  obtain ⟨x, t, he, -, hc, hr, hm, -, hf⟩ := row_done (W := fun _ => False) hrow h ht hd hp
    (fun x => by rw [hx]; exact .refl _ _) id
  exact ⟨x, t, he, ⟨hc, hr⟩, fun y hy => hm y (by simpa using hy), hf⟩

/-- A row whose directive becomes active: the owning block's answer `u`, which writes no exchange memory. -/
theorem row_active {u : Memory → State} {k : ActiveKind} {timer : Option Nat}
    (hrow : exec c s = .next (issue kind notify a s)) (h : ReadyForOne s)
    (ht : ∀ x, takeDirective kind (rowArgs a) (postedOver s x) = .active (u x) k timer)
    (hd : ∀ x, (u x).directives = s.directives) (hp : ∀ x, (u x).port = { s.port with reading := none })
    (hx : ∀ x, (u x).xm = x) :
    ∃ x t, exec c s = .next t ∧
      Lands (InRun (entryAddr s.directives.cursor) 32) s.xm x ∧
      ActiveAtCursor s t ⟨k, timer, notify⟩ ∧
      MemoryKept (InRun (entryAddr s.directives.cursor) 32) s t ∧
      t = { u x with directives := t.directives, port := t.port, xm := t.xm } := by
  have hl := postAtCursor_lands kind notify a (endReading s)
  have he := issue_active h (notify := notify) (a := a) (by rw [postAtCursor_postedOver]; exact ht _)
  generalize (postAtCursor kind notify a (endReading s)).xm = x at hl he
  have hput := putEntry_lands (u x).directives.cursor 2 .ok [] (u x)
  rw [hd, hx] at hput
  have hlast : Lands (InRun (entryAddr s.directives.cursor) 32) s.xm (putEntry (u x).directives.cursor 2 .ok [] (u x)).xm := by
    rw [hd]
    exact hl.trans hput
  refine ⟨x, _, hrow.trans (congrArg _ he), hl, ⟨putEntry_shows 2 .ok [] s (u x) (by rw [hd]), ?_, ?_⟩, hlast.kept, rfl⟩
  · show (⟨_, _⟩ : DirectiveProcessor) = _
    rw [hd]
  · exact hp x

end Row

/-! ### The kinds that every state but INIT accepts -/

theorem accepted_anywhere {kind : Nat} {g : GovState} (hg : g ≠ .init) (h1 : kind ≠ 1) (h2 : kind ≠ 10) :
    accepted kind g = true := by
  cases g with
  | init => exact absurd rfl hg
  | idle => rfl
  | running => exact decide_eq_true h1
  | stopping => exact Bool.and_eq_true_iff.2 ⟨decide_eq_true h1, decide_eq_true h2⟩
  | stopped => exact decide_eq_true h2

theorem takeDirective_accepted {kind : Byte} {a : List Byte} {u : State} (hk : 0 < kind.toNat ∧ kind.toNat ≤ 14)
    (ha : accepted kind.toNat u.governor.state = true) : takeDirective kind a u = takeKind kind.toNat a u := by
  rw [takeDirective, if_neg (by omega), if_pos ha]

theorem takeDirective_refused {kind : Byte} {a : List Byte} {u : State} (hk : 0 < kind.toNat ∧ kind.toNat ≤ 14)
    (ha : accepted kind.toNat u.governor.state = false) : takeDirective kind a u = .failed u .refusedState [0] := by
  rw [takeDirective, if_neg (by omega), if_neg (by simp [ha])]

/-- A row of a kind that only INIT refuses comes to its own checks. -/
theorem take_row {s : State} (h : ReadyForOne s) {kind : Byte} (hk : 0 < kind.toNat ∧ kind.toNat ≤ 14)
    (h1 : kind.toNat ≠ 1) (h2 : kind.toNat ≠ 10) (a : List Byte) (x : Memory) :
    takeDirective kind a (postedOver s x) = takeKind kind.toNat a (postedOver s x) :=
  takeDirective_accepted hk (accepted_anywhere h.2.1 h1 h2)

end Sys2Proof.Machine
end

section
/-! The rows that set the Slot Engine, the chains and the supply (R23, R48, R158). -/

namespace Sys2Proof.Machine

/-! ### SUPPLY_SETUP (R48) -/

theorem takeSupplySetup_row (budget : Half) (u : State) : takeSupplySetup (rowArgs (le16 budget)) u =
    if 8000 < budget.toNat then badArgument u 1
    else .done (formBudget { u with supply := { u.supply with configured := budget.toNat } }) [] := by
  have hb : argNat (rowArgs (le16 budget)) 4 = budget.toNat := by
    rw [argNat, arg16_rowArgs (by omega)]
    exact congrArg BitVec.toNat (le16_join budget)
  rw [takeSupplySetup, hb]

theorem supplySetup_row {s : State} {notify : Bool} (h : ReadyForOne s) (budget : Half) :
    ∃ t, exec (.supplySetup budget notify) s = .next t ∧ MemoryKept (EntryOrMirror s) s t ∧
      (8000 < budget.toNat → CompletedAtCursor s t notify 4 .badArgument [1] ∧ t.supply = s.supply) ∧
      (budget.toNat ≤ 8000 → CompletedAtCursor s t notify 3 .ok [] ∧ t.supply.configured = budget.toNat ∧
        t.supply.lastBudget = effectiveBudget { s with supply := ⟨budget.toNat, s.supply.lastBudget⟩ }) ∧
      t = { s with supply := t.supply, directives := t.directives, port := t.port, xm := t.xm } := by
  have htake (x : Memory) : takeDirective 0x04 (rowArgs (le16 budget)) (postedOver s x) = _ :=
    (take_row h (by decide) (by decide) (by decide) _ x).trans (takeSupplySetup_row budget _)
  by_cases hb : 8000 < budget.toNat
  · obtain ⟨t, he, hc, hm, hf⟩ := row_failed (c := .supplySetup budget notify) rfl h
      fun x => (htake x).trans (if_pos hb)
    have hs : t.supply = s.supply := by rw [hf]
    exact ⟨t, he, hm, fun _ => ⟨hc, hs⟩, fun h => by omega, by rw [hs]; exact hf⟩
  · obtain ⟨x, t, he, hc, hm, hf⟩ := row_done_quiet (c := .supplySetup budget notify) rfl h
      (fun x => (htake x).trans (if_neg hb)) (fun _ => rfl) (fun _ => rfl) (fun _ => rfl)
    have hs : t.supply = ⟨budget.toNat, effectiveBudget { s with supply := ⟨budget.toNat, s.supply.lastBudget⟩ }⟩ := by
      rw [hf]
      rfl
    exact ⟨t, he, hm, fun h => by omega, fun _ => ⟨hc, by rw [hs], by rw [hs]⟩, by rw [hs]; exact hf⟩

/-! ### SLOT_SETUP (R23) -/

theorem takeSlotSetup_row (n : Half) (code m watch : Byte) (u : State) :
    takeSlotSetup (rowArgs (le16 n ++ [code, m, watch])) u =
      if h : code.toNat < 4 then
        if 7 < m.toNat then badArgument u 3
        else if watch.toNat = 0 then badArgument u 4
        else .done (setupSlots n ⟨code.toNat, h⟩ m.toNat watch.toNat u) []
      else badArgument u 2 := by
  have h4 : arg16 (rowArgs (le16 n ++ [code, m, watch])) 4 = n := by
    rw [arg16_rowArgs (by omega)]
    exact le16_join n
  have h6 : arg8 (rowArgs (le16 n ++ [code, m, watch])) 6 = code.toNat := arg8_rowArgs (by omega)
  have h7 : arg8 (rowArgs (le16 n ++ [code, m, watch])) 7 = m.toNat := arg8_rowArgs (by omega)
  have h8 : arg8 (rowArgs (le16 n ++ [code, m, watch])) 8 = watch.toNat := arg8_rowArgs (by omega)
  simp only [takeSlotSetup, h4, h6, h7, h8]

theorem byte_toNat_eq_zero {b : Byte} : b.toNat = 0 ↔ b = 0 :=
  ⟨fun h => BitVec.eq_of_toNat_eq h, fun h => by rw [h]; rfl⟩

theorem slotSetup_row {s : State} {notify : Bool} (h : ReadyForOne s) (n : Half) (code m watch : Byte)
    (hg : s.governor.state = .idle ∨ s.governor.state = .stopped) :
    ∃ t, exec (.slotSetup n code m watch notify) s = .next t ∧
      (4 ≤ code.toNat → CompletedAtCursor s t notify 4 .badArgument [2] ∧ t.slot = s.slot) ∧
      (code.toNat < 4 → 7 < m.toNat → CompletedAtCursor s t notify 4 .badArgument [3] ∧ t.slot = s.slot) ∧
      (code.toNat < 4 → m.toNat ≤ 7 → watch = 0 →
        CompletedAtCursor s t notify 4 .badArgument [4] ∧ t.slot = s.slot) ∧
      (∀ h : code.toNat < 4, m.toNat ≤ 7 → watch ≠ 0 → CompletedAtCursor s t notify 3 .ok [] ∧
        memRead16 t.xm 2 = n ∧
        t.slot = { s.slot with
          n := n
          lengthCode := ⟨code.toNat, h⟩
          holdLimit := m.toNat
          watchPeriod := watch.toNat
          watch := watch.toNat
          missCount := 0
          carriedMiss := 0
          lastOutcomeMissed := false }) ∧
      (4 ≤ code.toNat ∨ 7 < m.toNat ∨ watch = 0 → MemoryKept (EntryOrMirror s) s t) ∧
      MemoryKept (fun a => EntryOrMirror s a ∨ InRun 2 2 a) s t ∧
      t = { s with slot := t.slot, directives := t.directives, port := t.port, xm := t.xm } := by
  have hacc : accepted (0x01 : Byte).toNat s.governor.state = true := by
    rcases hg with hg | hg <;> rw [hg] <;> rfl
  have htake (x : Memory) : takeDirective 0x01 (rowArgs (le16 n ++ [code, m, watch])) (postedOver s x) = _ :=
    (takeDirective_accepted (u := postedOver s x) (by decide) hacc).trans (takeSlotSetup_row n code m watch _)
  have failed (k : Nat) (hk : ∀ x, takeDirective 0x01 (rowArgs (le16 n ++ [code, m, watch])) (postedOver s x) =
      badArgument (postedOver s x) k) := row_failed (c := .slotSetup n code m watch notify) rfl h hk
  by_cases hcode : code.toNat < 4
  · by_cases hm7 : 7 < m.toNat
    · obtain ⟨t, he, hc, hm, hf⟩ := failed 3 fun x => by rw [htake, dif_pos hcode, if_pos hm7]
      have hs : t.slot = s.slot := by rw [hf]
      exact ⟨t, he, fun h => by omega, fun _ _ => ⟨hc, hs⟩, fun _ h => by omega, fun _ h => by omega, fun _ => hm,
        fun x hx => hm x fun hx' => hx (.inl hx'), by rw [hs]; exact hf⟩
    · by_cases hw : watch = 0
      · obtain ⟨t, he, hc, hm, hf⟩ := failed 4 fun x => by
          rw [htake, dif_pos hcode, if_neg hm7, if_pos (byte_toNat_eq_zero.2 hw)]
        have hs : t.slot = s.slot := by rw [hf]
        exact ⟨t, he, fun h => by omega, fun _ h => by omega, fun _ _ _ => ⟨hc, hs⟩, fun _ _ h => absurd hw h, fun _ => hm,
          fun x hx => hm x fun hx' => hx (.inl hx'), by rw [hs]; exact hf⟩
      · have hfar : ¬InRun 2 2 (entryAddr (s.directives.cursor + 1)) := by
          have := entryAddr_bounds (s.directives.cursor + 1)
          simp only [InRun]
          omega
        obtain ⟨x, t, he, hl, hc, hr, hm, hlast, hf⟩ := row_done (c := .slotSetup n code m watch notify)
          (W := InRun 2 2) (u := fun x => setupSlots n ⟨code.toNat, hcode⟩ m.toNat watch.toNat (postedOver s x)) rfl h
          (fun x => by rw [htake, dif_pos hcode, if_neg hm7, if_neg (mt byte_toNat_eq_zero.1 hw)])
          (fun _ => rfl) (fun _ => rfl) (fun x => putSlotMirror_lands { postedOver s x with slot := _ }) hfar
        have hs : t.slot = (setupSlots n ⟨code.toNat, hcode⟩ m.toNat watch.toNat (postedOver s x)).slot := by rw [hf]
        refine ⟨t, he, fun h => by omega, fun _ h => by omega, fun _ _ h => absurd h hw,
          fun _ _ _ => ⟨⟨hc, hr⟩, ?_, hs⟩, fun h => ?_, hm, by rw [hs]; exact hf⟩
        · have hkept (i : Nat) (hi : i = 2 ∨ i = 3) : memRead t.xm i =
              memRead (setupSlots n ⟨code.toNat, hcode⟩ m.toNat watch.toNat (postedOver s x)).xm i := by
            have := entryAddr_bounds s.directives.cursor
            exact hlast.kept i (by simp only [CompletionBytes, InRun]; omega)
          rw [memRead16, hkept 2 (.inl rfl), hkept 3 (.inr rfl)]
          exact setupSlots_mirrorShowsN _ _ _ _ _
        · rcases h with h | h | h
          · omega
          · omega
          · exact absurd h hw
  · obtain ⟨t, he, hc, hm, hf⟩ := failed 2 fun x => by rw [htake, dif_neg hcode]
    have hs : t.slot = s.slot := by rw [hf]
    exact ⟨t, he, fun _ => ⟨hc, hs⟩, fun h => absurd h hcode, fun h => absurd h hcode, fun h => absurd h hcode, fun _ => hm,
      fun x hx => hm x fun hx' => hx (.inl hx'), by rw [hs]; exact hf⟩

/-! ### CHAIN_SETUP (R158) -/

theorem takeChainSetup_row (b : Byte) (tsoft floor fallback : Half) (u : State) :
    takeChainSetup (rowArgs ([b, 0] ++ le16 tsoft ++ le16 floor ++ le16 fallback)) u =
      if h : b.toNat < 4 then
        if tsoft.toInt < 3840 ∨ 11200 < tsoft.toInt then badArgument u 2
        else if floor.toInt < -80 ∨ 120 < floor.toInt then badArgument u 3
        else if fallback.toInt < -2560 ∨ 11200 < fallback.toInt then badArgument u 4
        else .done { u with config := u.config.set ⟨b.toNat, h⟩ ⟨tsoft.toInt, floor.toInt, fallback.toInt⟩ } []
      else badArgument u 1 := by
  generalize ha : [b, 0] ++ le16 tsoft ++ le16 floor ++ le16 fallback = a
  have h4 : arg8 (rowArgs a) 4 = b.toNat := by rw [arg8_rowArgs (by omega), ← ha]; rfl
  have h6 : argInt (rowArgs a) 6 = tsoft.toInt := by
    rw [argInt, arg16_rowArgs (by omega), ← ha]
    exact congrArg BitVec.toInt (le16_join tsoft)
  have h8 : argInt (rowArgs a) 8 = floor.toInt := by
    rw [argInt, arg16_rowArgs (by omega), ← ha]
    exact congrArg BitVec.toInt (le16_join floor)
  have h10 : argInt (rowArgs a) 10 = fallback.toInt := by
    rw [argInt, arg16_rowArgs (by omega), ← ha]
    exact congrArg BitVec.toInt (le16_join fallback)
  simp only [takeChainSetup, h4, h6, h8, h10]

theorem chainSetup_row {s : State} {notify : Bool} (h : ReadyForOne s) (b : Byte) (tsoft floor fallback : Half) :
    ∃ t, exec (.chainSetup b tsoft floor fallback notify) s = .next t ∧
      (4 ≤ b.toNat → CompletedAtCursor s t notify 4 .badArgument [1] ∧ t.config = s.config) ∧
      (b.toNat < 4 → tsoft.toInt < 3840 ∨ 11200 < tsoft.toInt →
        CompletedAtCursor s t notify 4 .badArgument [2] ∧ t.config = s.config) ∧
      (b.toNat < 4 → 3840 ≤ tsoft.toInt → tsoft.toInt ≤ 11200 → floor.toInt < -80 ∨ 120 < floor.toInt →
        CompletedAtCursor s t notify 4 .badArgument [3] ∧ t.config = s.config) ∧
      (b.toNat < 4 → 3840 ≤ tsoft.toInt → tsoft.toInt ≤ 11200 → -80 ≤ floor.toInt → floor.toInt ≤ 120 →
        fallback.toInt < -2560 ∨ 11200 < fallback.toInt →
        CompletedAtCursor s t notify 4 .badArgument [4] ∧ t.config = s.config) ∧
      (∀ c : Chain, b.toNat = c.val → 3840 ≤ tsoft.toInt → tsoft.toInt ≤ 11200 → -80 ≤ floor.toInt →
        floor.toInt ≤ 120 → -2560 ≤ fallback.toInt → fallback.toInt ≤ 11200 →
        CompletedAtCursor s t notify 3 .ok [] ∧
          t.config = s.config.set c ⟨tsoft.toInt, floor.toInt, fallback.toInt⟩) ∧
      MemoryKept (EntryOrMirror s) s t ∧
      t = { s with config := t.config, directives := t.directives, port := t.port, xm := t.xm } := by
  have htake (x : Memory) := (take_row h (by decide) (by decide) (by decide) _ x :
    takeDirective 0x02 (rowArgs ([b, 0] ++ le16 tsoft ++ le16 floor ++ le16 fallback)) (postedOver s x) = _).trans
      (takeChainSetup_row b tsoft floor fallback _)
  have failed (k : Nat) (hk : ∀ x, takeDirective 0x02 (rowArgs ([b, 0] ++ le16 tsoft ++ le16 floor ++ le16 fallback))
      (postedOver s x) = badArgument (postedOver s x) k) :=
    row_failed (c := .chainSetup b tsoft floor fallback notify) rfl h hk
  by_cases hb : b.toNat < 4
  · by_cases ht : tsoft.toInt < 3840 ∨ 11200 < tsoft.toInt
    · obtain ⟨t, he, hc, hm, hf⟩ := failed 2 fun x => by rw [htake, dif_pos hb, if_pos ht]
      have hs : t.config = s.config := by rw [hf]
      exact ⟨t, he, fun h => by omega, fun _ _ => ⟨hc, hs⟩, fun _ _ _ => by omega, fun _ _ _ => by omega,
        fun _ _ _ _ => by omega, hm, by rw [hs]; exact hf⟩
    · by_cases hfl : floor.toInt < -80 ∨ 120 < floor.toInt
      · obtain ⟨t, he, hc, hm, hf⟩ := failed 3 fun x => by rw [htake, dif_pos hb, if_neg ht, if_pos hfl]
        have hs : t.config = s.config := by rw [hf]
        exact ⟨t, he, fun h => by omega, fun _ h => absurd h ht, fun _ _ _ _ => ⟨hc, hs⟩, fun _ _ _ _ _ => by omega,
          fun _ _ _ _ _ _ => by omega, hm, by rw [hs]; exact hf⟩
      · by_cases hfb : fallback.toInt < -2560 ∨ 11200 < fallback.toInt
        · obtain ⟨t, he, hc, hm, hf⟩ := failed 4 fun x => by rw [htake, dif_pos hb, if_neg ht, if_neg hfl, if_pos hfb]
          have hs : t.config = s.config := by rw [hf]
          exact ⟨t, he, fun h => by omega, fun _ h => absurd h ht, fun _ _ _ h => absurd h hfl,
            fun _ _ _ _ _ _ => ⟨hc, hs⟩, fun _ _ _ _ _ _ _ => by omega, hm, by rw [hs]; exact hf⟩
        · obtain ⟨x, t, he, hc, hm, hf⟩ := row_done_quiet (c := .chainSetup b tsoft floor fallback notify)
            (u := fun x => { postedOver s x with
              config := (postedOver s x).config.set ⟨b.toNat, hb⟩ ⟨tsoft.toInt, floor.toInt, fallback.toInt⟩ }) rfl h
            (fun x => by rw [htake, dif_pos hb, if_neg ht, if_neg hfl, if_neg hfb]) (fun _ => rfl) (fun _ => rfl)
            (fun _ => rfl)
          have hs : t.config = s.config.set ⟨b.toNat, hb⟩ ⟨tsoft.toInt, floor.toInt, fallback.toInt⟩ := by
            rw [hf]
            rfl
          refine ⟨t, he, fun h => by omega, fun _ h => absurd h ht, fun _ _ _ h => absurd h hfl,
            fun _ _ _ _ _ h => absurd h hfb, fun c hc' _ _ _ _ _ _ => ⟨hc, ?_⟩, hm, by rw [hs]; exact hf⟩
          rw [hs]
          exact congrArg (fun c => s.config.set c _) (Fin.ext hc')
  · obtain ⟨t, he, hc, hm, hf⟩ := failed 1 fun x => by rw [htake, dif_neg hb]
    have hs : t.config = s.config := by rw [hf]
    exact ⟨t, he, fun _ => ⟨hc, hs⟩, fun h => absurd h hb, fun h => absurd h hb, fun h => absurd h hb,
      fun c h => absurd h (by have := c.isLt; omega), hm, by rw [hs]; exact hf⟩

/-! ### The obligation -/

/-- Result data are eight bytes: a trailing zero more or less does not show. -/
theorem CompletedAtCursor.no_data {s t : State} {notify : Bool} {st : Byte} {why : ResultCode}
    (h : CompletedAtCursor s t notify st why [0]) : CompletedAtCursor s t notify st why [] := h

/-- Settles O44: each row by its own checks. -/
theorem slotChainAndSupplySetup : Obligations.SlotChainAndSupplySetup := by
  intro s notify h
  refine ⟨supplySetup_row h, slotSetup_row h, fun n code m watch hg => ?_, chainSetup_row h⟩
  obtain ⟨t, he, hc, hm, hf⟩ := row_failed (c := .slotSetup n code m watch notify) rfl h fun x =>
    takeDirective_refused (by decide) (by
      show accepted 1 s.governor.state = false
      rcases hg with hg | hg <;> rw [hg] <;> rfl)
  exact ⟨t, he, hc.no_data, hm, hf⟩

end Sys2Proof.Machine
end

section
/-! RELEASE_LATCH and CONDITION_SETUP (R93, R95, R103, R111, R113, R115, R116). -/

namespace Sys2Proof.Machine

/-! ### RELEASE_LATCH (R113) -/

/-- The three checks of R113 on a part that the row has posted to. -/
theorem takeReleaseLatch_row (c : Chain) {b : Byte} (hb : b.toNat = c.val) (u : State) :
    takeReleaseLatch (rowArgs [b]) u =
      if condState u (chainEntry c 2) ≠ .latched then badArgument u 0
      else if stillPresent u c then .failed u .conditionPresent (le16 (u16 (detectorCode u c)))
      else .done (releaseLatch c u) [byteOf (4 * c.val + 2), byteOf (u.supervisor.latchCount.get c)] := by
  have h4 : arg8 (rowArgs [b]) 4 = c.val := by
    rw [arg8_rowArgs (by omega)]
    exact hb
  simp only [takeReleaseLatch, h4, dif_pos c.isLt]

theorem stillPresent_iff (s : State) (c : Chain) : stillPresent s c = true ↔
    (s.slot.inForce.get c).force.state ≠ .on ∧
      s.supervisor.entries[chainEntry c 2].trip ≤ s.sensors.readings[7 + c.val].corrected := by
  rw [stillPresent, Bool.and_eq_true, decide_eq_true_eq, Bool.not_eq_true', chainOn, decide_eq_false_iff_not]
  rfl

theorem faultAddr_far_entry (c : Chain) {x : Nat} (h : InRun (faultAddr c) 64 x) (e : BitVec 5) :
    ¬InRun (entryAddr e) 32 x ∧ x ≠ 6 ∧ x ≠ entryAddr e := by
  have := entryAddr_bounds e
  have := fault_run h
  simp only [InRun] at *
  omega

/-- What an accepted release does to a posted part. -/
def releasedOver (c : Chain) (s : State) (x : Memory) : State :=
  { s with
    supervisor := { s.supervisor with
      entries := s.supervisor.entries.set (chainEntry c 2).val
        { s.supervisor.entries[chainEntry c 2] with state := .clear, elapsed := 0 } (chainEntry c 2).isLt
      cutRequest := s.supervisor.cutRequest.set c (condState s (chainEntry c 0)).acting
      faults := s.supervisor.faults.set c { s.supervisor.faults.get c with released := true } }
    port := { s.port with reading := none, ncause := s.port.ncause ||| 2 }
    xm := memStore x (faultAddr c) (faultBytes { s.supervisor.faults.get c with released := true }) }

theorem releaseLatch_postedOver {s : State} {c : Chain} (hl : condState s (chainEntry c 2) = .latched) (hc : CutLaw s)
    (hm : MuteLaw s) (x : Memory) : releaseLatch c (postedOver s x) = releasedOver c s x :=
  releaseLatch_latched (postedOver s x) c hl hc hm

/-- Settles O42: the checks in order, then the release over the posted memory. -/
theorem releaseLatchChecksAndReleases : Obligations.ReleaseLatchChecksAndReleases := by
  intro s b notify h
  have htake (x : Memory) := take_row (kind := 0x0C) h (by decide) (by decide) (by decide) (rowArgs [b]) x
  refine ⟨fun hb => ?_, fun c hb => ?_⟩
  · refine row_failed (c := .releaseLatch b notify) rfl h fun x => (htake x).trans ?_
    have h4 : arg8 (rowArgs [b]) 4 = b.toNat := arg8_rowArgs (by omega)
    exact dif_neg (by rw [h4]; omega)
  · replace htake (x : Memory) := (htake x).trans (takeReleaseLatch_row c hb _)
    have hlatched (hl : condState s (chainEntry c 2) = .latched) (x : Memory) :
        ¬condState (postedOver s x) (chainEntry c 2) ≠ .latched := not_not.2 hl
    refine ⟨fun hl => ?_, fun hl hon ht => ?_, fun hl hpass hcut hmute => ?_⟩
    · exact row_failed (c := .releaseLatch b notify) rfl h fun x => (htake x).trans (if_pos hl)
    · exact row_failed (c := .releaseLatch b notify) rfl h fun x => by
        rw [htake, if_neg (hlatched hl x), if_pos ((stillPresent_iff (postedOver s x) c).2 ⟨hon, ht⟩)]
        rfl
    · have hpresent (x : Memory) : ¬stillPresent (postedOver s x) c = true := fun hs => by
        obtain ⟨hon, ht⟩ := (stillPresent_iff _ _).1 hs
        rcases hpass with hp | hp
        · exact hon hp
        · exact absurd ht (not_le.2 hp)
      obtain ⟨x, t, he, hl', hc, hr, hm, hlast, hf⟩ := row_done (c := .releaseLatch b notify) (u := releasedOver c s)
        (W := InRun (faultAddr c) 64) (data := [byteOf (4 * c.val + 2), byteOf (s.supervisor.latchCount.get c)]) rfl h
        (fun x => by
          rw [htake, if_neg (hlatched hl x), if_neg (hpresent x), releaseLatch_postedOver hl hcut hmute]
          rfl)
        (fun _ => rfl) (fun _ => rfl) (fun x => .store fun y h1 h2 => ⟨h1, by simpa using h2⟩)
        (fun hx => (faultAddr_far_entry c hx _).2.2 rfl)
      have hsup : t.supervisor = (releasedOver c s x).supervisor := by rw [hf]
      have hrecord : memBytes t.xm (faultAddr c) 64 = faultBytes { s.supervisor.faults.get c with released := true } := by
        rw [hlast.memBytes fun y hy => ?_]
        · exact memBytes_memStore x (faultAddr c) _
        · obtain ⟨hrun, h6, -⟩ := faultAddr_far_entry c hy s.directives.cursor
          exact fun hc' => (completionBytes_entryOrMirror hc').elim hrun h6
      refine ⟨t, he, hc, hr, ?_, ?_, ?_, ?_, hrecord, by rw [hf]; rfl, by rw [hf]; rfl, hm, by rw [hsup]; exact hf⟩
      all_goals rw [hsup]; rfl

end Sys2Proof.Machine
end

section
/-! CONDITION_SETUP: the ranges of its arguments and the replacement of an entry (R93, R95, R103, R115, R116). -/

namespace Sys2Proof.Machine

/-! ### The argument checks (R115) -/

/-- The fault number of a setup, by the three ranges in order. -/
def SetupChecked (id : Fin 19) (trip recovery cap : Int) (goodTrip goodRecovery goodCap : Prop) : Prop :=
  (¬goodTrip → condSetupFault id trip recovery cap = some 2) ∧
  (goodTrip → ¬goodRecovery → condSetupFault id trip recovery cap = some 4) ∧
  (goodTrip → goodRecovery → ¬goodCap → condSetupFault id trip recovery cap = some 6) ∧
  (goodTrip → goodRecovery → goodCap → condSetupFault id trip recovery cap = none)

theorem setupChecked_of_ranges {id : Fin 19} {trip recovery cap : Int} {T R C : Prop}
    (hT : tripInRange id trip = true ↔ T) (hR : recoveryInRange id trip recovery = true ↔ R)
    (hC : capInRange id cap = true ↔ C) : SetupChecked id trip recovery cap T R C := by
  unfold SetupChecked
  rw [← hT, ← hR, ← hC]
  refine ⟨fun ht => ?_, fun ht hr => ?_, fun ht hr hc => ?_, fun ht hr hc => ?_⟩ <;> simp_all [condSetupFault]

section Ranges
variable {id : Fin 19} (trip recovery cap : Int)

theorem chain_entry_below (h : id.val < 16) : id.val ≠ 16 ∧ id.val ≠ 17 ∧ id.val ≠ 18 ∧ ¬16 < id.val := by
  omega

theorem setupChecked_junction (h : id.val < 16) (hk : id.val % 4 = 0) : SetupChecked id trip recovery cap
    (-2560 ≤ trip ∧ trip ≤ 27583) ((-2560 ≤ recovery ∧ recovery ≤ 27583) ∧ recovery < trip) True := by
  obtain ⟨h16, h17, h18, hlt⟩ := chain_entry_below h
  exact setupChecked_of_ranges (by simp [tripInRange, *]) (by simp [recoveryInRange, *]) (by simp [capInRange, *])

theorem setupChecked_module (h : id.val < 16) (hk : id.val % 4 = 1) : SetupChecked id trip recovery cap
    (-2560 ≤ trip ∧ trip ≤ 11200) ((-2560 ≤ recovery ∧ recovery ≤ 11200) ∧ recovery < trip) (-200 ≤ cap ∧ cap ≤ 120) := by
  obtain ⟨h16, h17, h18, hlt⟩ := chain_entry_below h
  exact setupChecked_of_ranges (by simp [tripInRange, *]) (by simp [recoveryInRange, *]) (by simp [capInRange, *])

theorem setupChecked_drive (h : id.val < 16) (hk : id.val % 4 = 2) : SetupChecked id trip recovery cap
    (0 ≤ trip ∧ trip ≤ 4095) True True := by
  obtain ⟨h16, h17, h18, hlt⟩ := chain_entry_below h
  exact setupChecked_of_ranges (by simp [tripInRange, *]) (by simp [recoveryInRange, *]) (by simp [capInRange, *])

theorem setupChecked_open (h : id.val < 16) (hk : id.val % 4 = 3) : SetupChecked id trip recovery cap
    True True (-200 ≤ cap ∧ cap ≤ 120) := by
  obtain ⟨h16, h17, h18, hlt⟩ := chain_entry_below h
  exact setupChecked_of_ranges (by simp [tripInRange, *]) (by simp [recoveryInRange, *]) (by simp [capInRange, *])

theorem setupChecked_enclosure (h : id.val = 16) : SetupChecked id trip recovery cap
    (-2560 ≤ trip ∧ trip ≤ 11200) ((-2560 ≤ recovery ∧ recovery ≤ 11200) ∧ recovery < trip) (-200 ≤ cap ∧ cap ≤ 120) :=
  setupChecked_of_ranges (by simp [tripInRange, h]) (by simp [recoveryInRange, h]) (by simp [capInRange, h])

theorem setupChecked_overcurrent (h : id.val = 17) : SetupChecked id trip recovery cap
    (0 ≤ trip ∧ trip ≤ 8190) ((0 ≤ recovery ∧ recovery ≤ 8190) ∧ recovery < trip) (0 ≤ cap ∧ cap ≤ 8000) :=
  setupChecked_of_ranges (by simp [tripInRange, h]) (by simp [recoveryInRange, h]) (by simp [capInRange, h])

theorem setupChecked_undervoltage (h : id.val = 18) : SetupChecked id trip recovery cap
    (0 ≤ trip ∧ trip ≤ 8190) ((0 ≤ recovery ∧ recovery ≤ 8190) ∧ trip < recovery) (0 ≤ cap ∧ cap ≤ 8000) :=
  setupChecked_of_ranges (by simp [tripInRange, h]) (by simp [recoveryInRange, h]) (by simp [capInRange, h])

end Ranges

/-! ### The replacement (R103, R116) -/

theorem setupEntry_cleared {dwell : Nat} {e : CondEntry} (h : dwell = 0 ∧ e.state ≠ .latched) (trip recovery : Int)
    (hold : Nat) (cap : Int) :
    setupEntry trip dwell recovery hold cap e = ⟨trip, dwell, recovery, hold, cap, .clear, 0⟩ :=
  if_pos h

theorem setupEntry_kept {dwell : Nat} {e : CondEntry} (h : ¬(dwell = 0 ∧ e.state ≠ .latched)) (trip recovery : Int)
    (hold : Nat) (cap : Int) :
    setupEntry trip dwell recovery hold cap e = ⟨trip, dwell, recovery, hold, cap, e.state, e.elapsed⟩ :=
  if_neg h

theorem replaceEntry_port (id : Fin 19) (e : CondEntry) (s : State) : (replaceEntry id e s).port = { s.port with
    ncause := if noticed (condState s id) e.state then s.port.ncause ||| 2 else s.port.ncause } := by
  simp only [replaceEntry, setCauseIf_ncause]
  rw [syncCuts_frame]
  rfl

theorem noticed_self (x : CondState) : noticed x x = false := by
  cases x <;> rfl

/-- A return to CLEAR is noticed exactly from an acting state, LATCHED apart. -/
theorem noticed_clear {x : CondState} (h : x ≠ .latched) : noticed x .clear = true ↔ x = .tripped ∨ x = .holdoff := by
  cases x with
  | latched => exact absurd rfl h
  | clear => exact ⟨nofun, by rintro (h | h) <;> cases h⟩
  | alert => exact ⟨nofun, by rintro (h | h) <;> cases h⟩
  | tripped => exact ⟨fun _ => .inl rfl, fun _ => rfl⟩
  | holdoff => exact ⟨fun _ => .inr rfl, fun _ => rfl⟩

/-- A setup is noticed exactly where it clears an acting entry. -/
theorem noticed_setup (dwell : Nat) (e : CondEntry) (trip recovery : Int) (hold : Nat) (cap : Int) :
    noticed e.state (setupEntry trip dwell recovery hold cap e).state = true ↔
      (dwell = 0 ∧ e.state ≠ .latched) ∧ (e.state = .tripped ∨ e.state = .holdoff) := by
  by_cases h : dwell = 0 ∧ e.state ≠ .latched
  · rw [setupEntry_cleared h, noticed_clear h.2]
    exact ⟨fun hs => ⟨h, hs⟩, fun hs => hs.2⟩
  · rw [setupEntry_kept h, noticed_self]
    exact ⟨nofun, fun hs => absurd hs.1 h⟩

/-- A setup makes no entry act or latch. -/
theorem setupEntry_falls (trip : Int) (dwell : Nat) (recovery : Int) (hold : Nat) (cap : Int) (e : CondEntry) :
    ((setupEntry trip dwell recovery hold cap e).state.acting = true → e.state.acting = true) ∧
      ((setupEntry trip dwell recovery hold cap e).state = .latched → e.state = .latched) := by
  rcases setupEntry_state trip dwell recovery hold cap e with hst | hst
  · rw [hst]
    exact ⟨nofun, nofun⟩
  · rw [hst]
    exact ⟨fun h => h, fun h => h⟩

/-- Replacing an entry by one that neither acts nor latches anew: nothing is cut and nothing muted. -/
theorem replaceEntry_of_falling {s : State} {id : Fin 19} {e : CondEntry} (hc : CutLaw s) (hm : MuteLaw s)
    (ha : e.state.acting = true → (condState s id).acting = true) (hl : e.state = .latched → condState s id = .latched) :
    replaceEntry id e s = { s with
      supervisor := { s.supervisor with
        entries := s.supervisor.entries.set id.val e id.isLt
        cutRequest := .ofFn (cutWanted (s.supervisor.entries.set id.val e id.isLt)) }
      port := (replaceEntry id e s).port } := by
  have hfall : ∀ c, cutWanted (s.supervisor.entries.set id.val e id.isLt) c = true → s.supervisor.cutRequest.get c = true := by
    intro c hw
    rw [cutWanted_set, Bool.or_eq_true] at hw
    rw [hc.2.2, Bool.or_eq_true]
    refine hw.imp (fun h => ?_) (fun h => ?_)
    · split at h
      · next hid =>
        subst hid
        exact ha h
      · exact h
    · split at h
      · next hid =>
        subst hid
        exact decide_eq_true (hl (of_decide_eq_true h))
      · exact h
  rw [replaceEntry_port]
  simp only [replaceEntry]
  rw [syncCuts_of_falling s _ hm hfall]
  cases noticed (condState s id) e.state <;> rfl

/-- The cut requests that a setup leaves: the JT entry's is withdrawn where it is cleared, the others stand. -/
theorem cutWanted_setup {s : State} (hc : CutLaw s) (id : Fin 19) (trip : Int) (dwell : Nat) (recovery : Int) (hold : Nat)
    (cap : Int) (c : Chain) :
    cutWanted (s.supervisor.entries.set id.val
        (setupEntry trip dwell recovery hold cap s.supervisor.entries[id]) id.isLt) c =
      if (dwell = 0 ∧ condState s id ≠ .latched) ∧ id = chainEntry c 0 then decide (condState s (chainEntry c 2) = .latched)
      else s.supervisor.cutRequest.get c := by
  have h02 : chainEntry c 0 ≠ chainEntry c 2 := fun h => by
    have := congrArg Fin.val h
    simp [chainEntry] at this
  rw [cutWanted_set, hc.2.2]
  by_cases h : dwell = 0 ∧ condState s id ≠ .latched
  · rw [setupEntry_cleared h]
    by_cases hid : id = chainEntry c 0
    · rw [if_pos hid, if_neg (by rw [hid]; exact h02), if_pos ⟨h, hid⟩]
      rfl
    · rw [if_neg hid, if_neg (show ¬((dwell = 0 ∧ condState s id ≠ .latched) ∧ id = chainEntry c 0) from fun hn => hid hn.2)]
      split
      · next hid2 =>
        subst hid2
        rw [decide_eq_false h.2]
        rfl
      · rfl
  · rw [setupEntry_kept h,
      if_neg (show ¬((dwell = 0 ∧ condState s id ≠ .latched) ∧ id = chainEntry c 0) from fun hn => h hn.1)]
    congr 1
    · split
      · next hid =>
        subst hid
        rfl
      · rfl
    · split
      · next hid =>
        subst hid
        rfl
      · rfl

/-! ### The row -/

/-- A setup's quantity as the entry reads it: signed for the temperatures, unsigned for codes, currents and voltages. -/
def setupQuantity (id : Fin 19) (h : Half) : Int :=
  if 16 < id.val ∨ (id.val < 16 ∧ id.val % 4 = 2) then h.toNat else h.toInt

theorem takeConditionSetup_row (id : Fin 19) {b : Byte} (hb : b.toNat = id.val) (trip dwell recovery hold cap : Half)
    (u : State) :
    takeConditionSetup (rowArgs ([b, 0] ++ le16 trip ++ le16 dwell ++ le16 recovery ++ le16 hold ++ le16 cap)) u =
      match condSetupFault id (setupQuantity id trip) (setupQuantity id recovery) cap.toInt with
      | some n => badArgument u n
      | none => .done (replaceEntry id (setupEntry (setupQuantity id trip) dwell.toNat (setupQuantity id recovery) hold.toNat
          cap.toInt u.supervisor.entries[id]) u) [] := by
  generalize ha : [b, 0] ++ le16 trip ++ le16 dwell ++ le16 recovery ++ le16 hold ++ le16 cap = a
  have h4 : arg8 (rowArgs a) 4 = id.val := by rw [arg8_rowArgs (by omega), ← ha]; exact hb
  have h6 : arg16 (rowArgs a) 6 = trip := by rw [arg16_rowArgs (by omega), ← ha]; exact le16_join trip
  have h8 : arg16 (rowArgs a) 8 = dwell := by rw [arg16_rowArgs (by omega), ← ha]; exact le16_join dwell
  have h10 : arg16 (rowArgs a) 10 = recovery := by rw [arg16_rowArgs (by omega), ← ha]; exact le16_join recovery
  have h12 : arg16 (rowArgs a) 12 = hold := by rw [arg16_rowArgs (by omega), ← ha]; exact le16_join hold
  have h14 : arg16 (rowArgs a) 14 = cap := by rw [arg16_rowArgs (by omega), ← ha]; exact le16_join cap
  simp only [takeConditionSetup, h4, dif_pos id.isLt, condQuantity, argNat, argInt, h6, h8, h10, h12, h14] <;> rfl

/-- The row of an accepted setup. -/
theorem conditionSetup_accepted {s : State} {notify : Bool} (h : ReadyForOne s) {b : Byte} {id : Fin 19}
    (hb : b.toNat = id.val) {trip dwell recovery hold cap : Half}
    (hn : condSetupFault id (setupQuantity id trip) (setupQuantity id recovery) cap.toInt = none) :
    let e := s.supervisor.entries[id]
    let new := setupEntry (setupQuantity id trip) dwell.toNat (setupQuantity id recovery) hold.toNat cap.toInt e
    ∃ x t, exec (.conditionSetup b trip dwell recovery hold cap notify) s = .next t ∧
      CompletedOver (if noticed e.state new.state then s.port.ncause ||| 2 else s.port.ncause) s t notify 3 .ok [] ∧
      t.port.reading = none ∧ MemoryKept (EntryOrMirror s) s t ∧
      t = { replaceEntry id new (postedOver s x) with directives := t.directives, port := t.port, xm := t.xm } := by
  intro e new
  obtain ⟨x, t, he, -, hc, hr, hm, -, hf⟩ := row_done (c := .conditionSetup b trip dwell recovery hold cap notify)
    (u := fun x => replaceEntry id new (postedOver s x)) (W := fun _ => False) (data := [])
    (causes := if noticed e.state new.state then s.port.ncause ||| 2 else s.port.ncause) rfl h
    (fun x => by
      rw [take_row h (by decide) (by decide) (by decide)]
      refine (takeConditionSetup_row id hb trip dwell recovery hold cap (postedOver s x)).trans ?_
      rw [hn]
      rfl)
    (fun x => by rw [replaceEntry_frame]; rfl) (fun x => replaceEntry_port id new (postedOver s x))
    (fun x => by rw [replaceEntry_xm]; exact .refl _ _) not_false
  exact ⟨x, t, he, hc, hr, fun y hy => hm y (by simpa using hy), hf⟩

/-- Settles O43: the ranges by the sort of the entry, the row by its checks, the replacement with what a return to CLEAR
brings. -/
theorem conditionSetupReplacesTheParameters : Obligations.ConditionSetupReplacesTheParameters := by
  refine ⟨fun id trip recovery cap => ⟨setupChecked_junction trip recovery cap, setupChecked_module trip recovery cap,
    setupChecked_drive trip recovery cap, setupChecked_open trip recovery cap, setupChecked_enclosure trip recovery cap,
    setupChecked_overcurrent trip recovery cap, setupChecked_undervoltage trip recovery cap⟩, ?_⟩
  intro s b trip dwell recovery hold cap notify h
  have htake (a : List Byte) (x : Memory) := take_row (kind := 0x03) h (by decide) (by decide) (by decide) a x
  refine ⟨fun hb => ?_, fun id hb => ⟨fun n hn => ?_, fun hn => ?_⟩⟩
  · refine row_failed (c := .conditionSetup b trip dwell recovery hold cap notify) rfl h fun x => (htake _ x).trans ?_
    exact dif_neg (by rw [arg8_rowArgs (by omega)]; exact not_lt.2 hb)
  · refine row_failed (c := .conditionSetup b trip dwell recovery hold cap notify) rfl h fun x =>
      (htake _ x).trans ((takeConditionSetup_row id hb trip dwell recovery hold cap _).trans ?_)
    rw [show condSetupFault id (setupQuantity id trip) (setupQuantity id recovery) cap.toInt = some n from hn]
    rfl
  · obtain ⟨x, t, he, hc, hr, hm, hf⟩ := conditionSetup_accepted (notify := notify) h hb hn
    have hzero : dwell.toNat = 0 ↔ dwell = 0 := ⟨fun h => BitVec.eq_of_toNat_eq h, fun h => by rw [h]; rfl⟩
    have hentries : t.supervisor.entries = _ := (by rw [hf] : t.supervisor.entries = _).trans (replaceEntry_entries _ _ _)
    have hcut : t.supervisor.cutRequest = _ := (by rw [hf] : t.supervisor.cutRequest = _).trans (replaceEntry_cutRequest _ _ _)
    have hnoticed := noticed_setup dwell.toNat s.supervisor.entries[id] (setupQuantity id trip) (setupQuantity id recovery)
      hold.toNat cap.toInt
    rw [hzero] at hnoticed
    refine ⟨t, he, fun hcl hact => ?_, fun hno => ?_, hr, fun hcl => ?_, fun hno => ?_, hm, fun hcl hml => ⟨fun c => ?_, ?_⟩⟩
    · rwa [if_pos (hnoticed.2 ⟨hcl, hact⟩)] at hc
    · rwa [if_neg fun hs => ?_] at hc
      obtain ⟨hcl, hact⟩ := hnoticed.1 hs
      exact hno.elim (fun hn => hn hcl) fun hn => hact.elim hn.1 hn.2
    · rw [hentries, setupEntry_cleared ⟨hzero.2 hcl.1, hcl.2⟩]
      rfl
    · rw [hentries, setupEntry_kept fun hs => hno ⟨hzero.1 hs.1, hs.2⟩]
      rfl
    · rw [hcut, PerChain.get_ofFn]
      refine (cutWanted_setup (s := s) hcl id _ _ _ _ _ c).trans ?_
      simp only [hzero]
      rfl
    · obtain ⟨hact, hlatched⟩ := setupEntry_falls (setupQuantity id trip) dwell.toNat (setupQuantity id recovery) hold.toNat
        cap.toInt s.supervisor.entries[id]
      rw [replaceEntry_of_falling (s := postedOver s x) hcl hml hact hlatched] at hf
      rw [hentries, hcut]
      exact hf

end Sys2Proof.Machine
end

section
/-! Directives with a timer, and the Sensor Unit's (R127 to R133, R156): the step that counts, the step that completes. -/

namespace Sys2Proof.Machine

/-! ### The step event (R156) -/

theorem exec_directiveStepEvent {s : State} (h : resetHeld s = false) (m : Measurement) :
    exec (.directiveStepEvent m) s = .next (directiveStep m s) := by
  show Host.Outcome.next (unlessHeld (directiveStep m) s) = _
  rw [unlessHeld_of_free h]

/-- A step before the last makes its measurement and counts. -/
theorem exec_directiveStepEvent_counts {s : State} {kind : ActiveKind} {n : Nat} {notify : Bool} (hf : resetHeld s = false)
    (h : s.directives.active = some ⟨kind, some (n + 2), notify⟩) (m : Measurement) :
    exec (.directiveStepEvent m) s = .next { stepMeasurement kind m s with
      directives := ⟨s.directives.cursor, some ⟨kind, some (n + 1), notify⟩⟩ } := by
  have hd : (stepMeasurement kind m s).directives.cursor = s.directives.cursor := by cases kind <;> rfl
  rw [exec_directiveStepEvent hf, ← hd, directiveStep, h]
  dsimp only
  rw [if_neg (by omega)]
  rfl

/-- What the step that completes the active directive comes to, by the owning block's answer. -/
theorem exec_directiveStepEvent_completes {s u : State} {m : Measurement} {st : Byte} {why : ResultCode} {data : List Byte}
    {notify : Bool} (hf : resetHeld s = false) (hs : directiveStep m s = completeEntry st why data notify u)
    (hd : u.directives = s.directives) (hp : u.port = s.port) (hx : u.xm = s.xm) :
    ∃ t, exec (.directiveStepEvent m) s = .next t ∧ t.port.reading = s.port.reading ∧
      CompletedOver s.port.ncause s t notify st why data ∧ MemoryKept (CompletionBytes s) s t ∧
      t = { u with directives := t.directives, port := t.port, xm := t.xm } := by
  obtain ⟨hc, hr, hm, hfr⟩ := completeEntry_over (s := s) (W := fun _ => False) (causes := s.port.ncause)
    (reading := s.port.reading) st why data notify hd hp (by rw [hx]; exact .refl _ _)
  exact ⟨_, (exec_directiveStepEvent hf m).trans (congrArg _ hs), hr, hc, fun y hy => hm y (by simpa using hy), hfr⟩

/-! ### Measuring (R128, R129, R131) -/

theorem measure_eq (half : Nat) (m : Measurement) (s : State) : measure half m s = { s with
    sensors := { s.sensors with measurements :=
      if s.sensors.measurements.length < half then s.sensors.measurements ++ [m.zero.toInt]
      else s.sensors.measurements ++ [(m.reference.toNat : Int)] } } := by
  simp only [measure, mapSensors]
  split <;> rfl

/-! ### SENSOR_SETUP (R133) -/

theorem takeSensorSetup_row (b : Byte) (intercept slope : Half) (u : State) :
    takeSensorSetup (rowArgs ([b, 0] ++ le16 intercept ++ le16 slope)) u =
      if h : b.toNat < 5 then
        if intercept.toInt < -2560 ∨ 11200 < intercept.toInt then badArgument u 2
        else if slope.toNat = 0 ∨ 32767 < slope.toNat then badArgument u 3
        else .done (setChannel ⟨b.toNat, h⟩ ⟨intercept.toInt, slope.toNat⟩ u) []
      else badArgument u 1 := by
  generalize ha : [b, 0] ++ le16 intercept ++ le16 slope = a
  have h4 : arg8 (rowArgs a) 4 = b.toNat := by rw [arg8_rowArgs (by omega), ← ha]; rfl
  have h6 : arg16 (rowArgs a) 6 = intercept := by rw [arg16_rowArgs (by omega), ← ha]; exact le16_join intercept
  have h8 : arg16 (rowArgs a) 8 = slope := by rw [arg16_rowArgs (by omega), ← ha]; exact le16_join slope
  simp only [takeSensorSetup, argInt, argNat, h4, h6, h8]

theorem half_toNat_eq_zero {w : Half} : w.toNat = 0 ↔ w = 0 :=
  ⟨fun h => BitVec.eq_of_toNat_eq h, fun h => by rw [h]; rfl⟩

theorem sensorSetup_row {s : State} {notify : Bool} (h : ReadyForOne s) (b : Byte) (intercept slope : Half) :
    ∃ t, exec (.sensorSetup b intercept slope notify) s = .next t ∧
      (5 ≤ b.toNat → CompletedAtCursor s t notify 4 .badArgument [1] ∧ t.sensors = s.sensors) ∧
      (b.toNat < 5 → intercept.toInt < -2560 ∨ 11200 < intercept.toInt →
        CompletedAtCursor s t notify 4 .badArgument [2] ∧ t.sensors = s.sensors) ∧
      (b.toNat < 5 → -2560 ≤ intercept.toInt → intercept.toInt ≤ 11200 → slope = 0 ∨ 32767 < slope.toNat →
        CompletedAtCursor s t notify 4 .badArgument [3] ∧ t.sensors = s.sensors) ∧
      (∀ ch : Fin 5, b.toNat = ch.val → -2560 ≤ intercept.toInt → intercept.toInt ≤ 11200 → slope ≠ 0 →
        slope.toNat ≤ 32767 → CompletedAtCursor s t notify 3 .ok [] ∧
        t.sensors = { s.sensors with
          pairs := s.sensors.pairs.set ch.val ⟨intercept.toInt, slope.toNat⟩ ch.isLt
          mode := .settling
          settleCount := 2
          held := true
          measurements := [] }) ∧
      MemoryKept (EntryOrMirror s) s t ∧
      t = { s with sensors := t.sensors, directives := t.directives, port := t.port, xm := t.xm } := by
  have htake (x : Memory) := (take_row h (by decide) (by decide) (by decide) _ x :
    takeDirective 0x05 (rowArgs ([b, 0] ++ le16 intercept ++ le16 slope)) (postedOver s x) = _).trans
      (takeSensorSetup_row b intercept slope _)
  have failed (k : Nat) (hk : ∀ x, takeDirective 0x05 (rowArgs ([b, 0] ++ le16 intercept ++ le16 slope))
      (postedOver s x) = badArgument (postedOver s x) k) :=
    row_failed (c := .sensorSetup b intercept slope notify) rfl h hk
  simp only [← half_toNat_eq_zero, ne_eq]
  by_cases hb : b.toNat < 5
  · by_cases hi : intercept.toInt < -2560 ∨ 11200 < intercept.toInt
    · obtain ⟨t, he, hc, hm, hf⟩ := failed 2 fun x => by rw [htake, dif_pos hb, if_pos hi]
      have hs : t.sensors = s.sensors := by rw [hf]
      exact ⟨t, he, fun h => by omega, fun _ _ => ⟨hc, hs⟩, fun _ _ _ => by omega, fun _ _ _ _ => by omega, hm,
        by rw [hs]; exact hf⟩
    · by_cases hsl : slope.toNat = 0 ∨ 32767 < slope.toNat
      · obtain ⟨t, he, hc, hm, hf⟩ := failed 3 fun x => by rw [htake, dif_pos hb, if_neg hi, if_pos hsl]
        have hs : t.sensors = s.sensors := by rw [hf]
        exact ⟨t, he, fun h => by omega, fun _ h => absurd h hi, fun _ _ _ _ => ⟨hc, hs⟩, fun _ _ _ _ _ _ => by omega, hm,
          by rw [hs]; exact hf⟩
      · obtain ⟨x, t, he, hc, hm, hf⟩ := row_done_quiet (c := .sensorSetup b intercept slope notify)
          (u := fun x => setChannel ⟨b.toNat, hb⟩ ⟨intercept.toInt, slope.toNat⟩ (postedOver s x)) rfl h
          (fun x => by rw [htake, dif_pos hb, if_neg hi, if_neg hsl]) (fun _ => rfl) (fun _ => rfl) (fun _ => rfl)
        have hs : t.sensors = (setChannel ⟨b.toNat, hb⟩ ⟨intercept.toInt, slope.toNat⟩ (postedOver s x)).sensors := by rw [hf]
        refine ⟨t, he, fun h => by omega, fun _ h => absurd h hi, fun _ _ _ h => absurd h hsl,
          fun ch hch _ _ _ _ => ⟨hc, ?_⟩, hm, by rw [hs]; exact hf⟩
        rw [hs, show (⟨b.toNat, hb⟩ : Fin 5) = ch from Fin.ext hch]
        rfl
  · obtain ⟨t, he, hc, hm, hf⟩ := failed 1 fun x => by rw [htake, dif_neg hb]
    have hs : t.sensors = s.sensors := by rw [hf]
    exact ⟨t, he, fun _ => ⟨hc, hs⟩, fun h => absurd h hb, fun h => absurd h hb,
      fun ch h => absurd h (by have := ch.isLt; omega), hm, by rw [hs]; exact hf⟩

/-- Settles O46: the takes, the steps that measure, the setup of a pair. -/
theorem sensorDirectivesHoldTheTable : Obligations.SensorDirectivesHoldTheTable := by
  refine ⟨fun s notify h => ⟨?_, ?_⟩, fun s m n notify hf => ⟨fun ha => ?_, fun ha => ?_⟩,
    fun s b intercept slope notify h => sensorSetup_row h b intercept slope⟩
  · obtain ⟨x, t, he, -, ha, hm, hfr⟩ := row_active (c := .calibrate notify) (kind := 0x08) (a := [])
      (u := fun x => beginMeasuring .calibrating (postedOver s x)) rfl h
      (fun x => take_row h (by decide) (by decide) (by decide) _ x) (fun _ => rfl) (fun _ => rfl) (fun _ => rfl)
    exact ⟨t, he, ha, hm, hfr⟩
  · obtain ⟨x, t, he, -, ha, hm, hfr⟩ := row_active (c := .selftest notify) (kind := 0x09) (a := [])
      (u := fun x => beginMeasuring .selftesting (postedOver s x)) rfl h
      (fun x => take_row h (by decide) (by decide) (by decide) _ x) (fun _ => rfl) (fun _ => rfl) (fun _ => rfl)
    exact ⟨t, he, ha, hm, hfr⟩
  · rw [exec_directiveStepEvent_counts hf ha]
    simp only [stepMeasurement, measure_eq]
  · rw [exec_directiveStepEvent_counts hf ha]
    simp only [stepMeasurement, measure_eq]

end Sys2Proof.Machine
end

section
/-! The completions of CALIBRATE and SELFTEST (R127, R129 to R132). -/

namespace Sys2Proof.Machine

/-! ### The means at the last measurement (R129, R131) -/

theorem meanOf_zeros {n : Nat} {ms : List Int} (h : ms.length + 1 = 2 * n) (r : Int) :
    meanOf n ((ms ++ [r]).take n) = ((ms.take n).sum + (n / 2 : Nat)) / n := by
  rw [meanOf, List.take_append_of_le_length (by omega)]

theorem meanOf_references {n : Nat} {ms : List Int} (h : ms.length + 1 = 2 * n) (r : Int) :
    meanOf n (((ms ++ [r]).drop n).take n) = ((ms.drop n).sum + r + (n / 2 : Nat)) / n := by
  rw [meanOf, List.drop_append_of_le_length (by omega), List.take_of_length_le (by simp; omega), List.sum_append,
    List.sum_singleton]

/-! ### CALIBRATE (R130) -/

/-- The gain that a calibration within its limits forms. -/
theorem gain_bounds {z ref : Int} (h1 : -64 ≤ z) (h2 : z ≤ 64) (h3 : 2872 ≤ ref) (h4 : ref ≤ 3272) :
    3772 ≤ (4096 * 3072 + (ref - z) / 2) / (ref - z) ∧ (4096 * 3072 + (ref - z) / 2) / (ref - z) ≤ 4481 := by
  have hpos : 0 < ref - z := by omega
  refine ⟨(Int.le_ediv_iff_mul_le hpos).2 (by omega), Int.lt_add_one_iff.1 ?_⟩
  exact (Int.ediv_lt_iff_lt_mul hpos).2 (by omega)

/-- A calibration at its sixteenth measurement, by its two checks. -/
theorem calibrationOf_last {ms : List Int} (h : ms.length = 15) (r : Int) :
    calibrationOf (ms ++ [r]) =
      if ((ms.take 8).sum + 4) / 8 < -64 ∨ 64 < ((ms.take 8).sum + 4) / 8 then
        ⟨((ms.take 8).sum + 4) / 8, ((ms.drop 8).sum + r + 4) / 8, 0, 1⟩
      else if ((ms.drop 8).sum + r + 4) / 8 < 2872 ∨ 3272 < ((ms.drop 8).sum + r + 4) / 8 then
        ⟨((ms.take 8).sum + 4) / 8, ((ms.drop 8).sum + r + 4) / 8, 0, 2⟩
      else ⟨((ms.take 8).sum + 4) / 8, ((ms.drop 8).sum + r + 4) / 8,
        (4096 * 3072 + (((ms.drop 8).sum + r + 4) / 8 - ((ms.take 8).sum + 4) / 8) / 2) /
          (((ms.drop 8).sum + r + 4) / 8 - ((ms.take 8).sum + 4) / 8), 0⟩ := by
  simp only [calibrationOf]
  rw [meanOf_zeros (by omega), meanOf_references (by omega)]
  rfl

/-- CALIBRATE's last step: its completion by what the calibration finds, the pair replaced where no check failed, settling
begun. -/
theorem calibrate_completes {s : State} {m : Measurement} {notify : Bool} {k : Calibration}
    (hc : CompletesNext s .calibrate notify) (hl : s.sensors.measurements.length = 15)
    (hk : calibrationOf (s.sensors.measurements ++ [(m.reference.toNat : Int)]) = k) :
    ∃ t, exec (.calibrateCompletion m) s = .next t ∧ exec (.directiveStepEvent m) s = .next t ∧
      t.port.reading = s.port.reading ∧
      CompletedOver s.port.ncause s t notify (if k.failing = 0 then 3 else 4) (if k.failing = 0 then .ok else .calFailed)
        (le16 (i16 k.zero) ++ le16 (i16 k.reference) ++ le16 (i16 k.gain) ++ [byteOf k.failing]) ∧
      t.sensors = { s.sensors with
        offset := if k.failing = 0 then k.zero else s.sensors.offset
        gain := if k.failing = 0 then k.gain.toNat else s.sensors.gain
        mode := .settling
        settleCount := 2
        held := true
        measurements := [] } ∧
      MemoryKept (CompletionBytes s) s t ∧
      t = { s with sensors := t.sensors, directives := t.directives, port := t.port, xm := t.xm } := by
  obtain ⟨hf, ha, -⟩ := id hc
  have hsame : exec (.calibrateCompletion m) s = exec (.directiveStepEvent m) s := by
    obtain ⟨-, -, -, -, -, -, -, hcal, -⟩ := innerStepsAreTheirEnclosingEvents
    exact hcal s m ⟨1, notify, ha, le_refl 1⟩
  have hm : stepMeasurement .calibrate m s = { s with
      sensors := { s.sensors with measurements := s.sensors.measurements ++ [(m.reference.toNat : Int)] } } := by
    rw [stepMeasurement, measure_eq, if_neg (by omega)]
  have hu : beginSettling (applyCalibration k (stepMeasurement .calibrate m s)) = { s with sensors := { s.sensors with
      offset := if k.failing = 0 then k.zero else s.sensors.offset
      gain := if k.failing = 0 then k.gain.toNat else s.sensors.gain
      mode := .settling
      settleCount := 2
      held := true
      measurements := [] } } := by
    rw [hm, applyCalibration_frame]
    rfl
  have hanswer : answerTimed .calibrate (stepMeasurement .calibrate m s) =
      if k.failing = 0 then .done (beginSettling (applyCalibration k (stepMeasurement .calibrate m s)))
        (le16 (i16 k.zero) ++ le16 (i16 k.reference) ++ le16 (i16 k.gain) ++ [byteOf k.failing])
      else .failed (beginSettling (applyCalibration k (stepMeasurement .calibrate m s))) .calFailed
        (le16 (i16 k.zero) ++ le16 (i16 k.reference) ++ le16 (i16 k.gain) ++ [byteOf k.failing]) := by
    simp only [answerTimed, answerCalibrate]
    rw [show calibrationOf (stepMeasurement .calibrate m s).sensors.measurements = k by rw [hm]; exact hk]
  have hstep : directiveStep m s = completeEntry (if k.failing = 0 then 3 else 4)
      (if k.failing = 0 then .ok else .calFailed)
      (le16 (i16 k.zero) ++ le16 (i16 k.reference) ++ le16 (i16 k.gain) ++ [byteOf k.failing]) notify
      (beginSettling (applyCalibration k (stepMeasurement .calibrate m s))) := by
    by_cases h0 : k.failing = 0
    · rw [if_pos h0] at hanswer
      rw [if_pos h0, if_pos h0]
      exact directiveStep_done hc hanswer (by rw [hu]) (by rw [hu])
    · rw [if_neg h0] at hanswer
      rw [if_neg h0, if_neg h0]
      exact directiveStep_failed hc hanswer (by rw [hu]) (by rw [hu])
  rw [hu] at hstep
  obtain ⟨t, he, hr, hcomp, hkept, hfr⟩ := exec_directiveStepEvent_completes (m := m) hf hstep rfl rfl rfl
  have hsensors : t.sensors = _ := (congrArg State.sensors hfr).trans rfl
  exact ⟨t, hsame.trans he, he, hr, hcomp, hsensors, hkept, by rw [hsensors]; exact hfr⟩

/-! ### SELFTEST (R132) -/

/-- SELFTEST's last step: its completion by what the self-test finds, settling begun. -/
theorem selftest_completes {s : State} {m : Measurement} {notify : Bool} {k : SelfCheck}
    (hc : CompletesNext s .selftest notify) (hl : s.sensors.measurements.length = 7)
    (hk : selfCheckOf { s.sensors with
      measurements := s.sensors.measurements ++ [(m.reference.toNat : Int)] } = k) :
    ∃ t, exec (.selftestCompletion m) s = .next t ∧ exec (.directiveStepEvent m) s = .next t ∧
      t.port.reading = s.port.reading ∧
      CompletedOver s.port.ncause s t notify 3 .ok (le16 (i16 k.zero) ++ le16 (i16 k.reference) ++ [flagBit k.failed 0]) ∧
      MemoryKept (CompletionBytes s) s t ∧
      t = { s with
        sensors := { s.sensors with mode := .settling, settleCount := 2, held := true, measurements := [] }
        directives := t.directives, port := t.port, xm := t.xm } := by
  obtain ⟨hf, ha, -⟩ := id hc
  have hsame : exec (.selftestCompletion m) s = exec (.directiveStepEvent m) s := by
    obtain ⟨-, -, -, -, -, -, -, -, hself, -⟩ := innerStepsAreTheirEnclosingEvents
    exact hself s m ⟨1, notify, ha, le_refl 1⟩
  have hm : stepMeasurement .selftest m s = { s with
      sensors := { s.sensors with measurements := s.sensors.measurements ++ [(m.reference.toNat : Int)] } } := by
    rw [stepMeasurement, measure_eq, if_neg (by omega)]
  have hanswer : answerTimed .selftest (stepMeasurement .selftest m s) =
      .done (beginSettling { s with
        sensors := { s.sensors with measurements := s.sensors.measurements ++ [(m.reference.toNat : Int)] } })
        (le16 (i16 k.zero) ++ le16 (i16 k.reference) ++ [flagBit k.failed 0]) := by
    rw [hm, ← hk]
    rfl
  obtain ⟨t, he, hr, hcomp, hkept, hfr⟩ := exec_directiveStepEvent_completes (m := m) hf
    (directiveStep_done hc hanswer rfl rfl) rfl rfl rfl
  exact ⟨t, hsame.trans he, he, hr, hcomp, hkept, hfr⟩

/-- A self-test at its eighth measurement: both means corrected, and its limits. -/
theorem selfCheckOf_last {u : SensorUnit} {ms : List Int} (h : ms.length = 7) (r : Int) :
    selfCheckOf { u with measurements := ms ++ [r] } =
      let cz := ((((ms.take 4).sum + 2) / 4 - u.offset) * u.gain + 2048) / 4096
      let cr := ((((ms.drop 4).sum + r + 2) / 4 - u.offset) * u.gain + 2048) / 4096
      ⟨cz, cr, !(decide (-24 ≤ cz) && decide (cz ≤ 24) && decide (3048 ≤ cr) && decide (cr ≤ 3096))⟩ := by
  simp only [selfCheckOf, correctedCode]
  rw [meanOf_zeros (by omega), meanOf_references (by omega)]
  rfl

/-- Settles O47: CALIBRATE by its two checks, SELFTEST by its limits. -/
theorem calibrateAndSelftestComplete : Obligations.CalibrateAndSelftestComplete := by
  refine ⟨fun s m notify hc hl => ?_, fun s m notify hc hl => ?_⟩
  · intro z ref gain data
    have hcal := calibrationOf_last hl (m.reference.toNat : Int)
    by_cases hz : z < -64 ∨ 64 < z
    · obtain ⟨t, he, he', hr, hcomp, hs, hm, hf⟩ := calibrate_completes hc hl (hcal.trans (if_pos hz))
      exact ⟨t, he, he', hr, fun _ => ⟨hcomp, by rw [hs]; rfl, by rw [hs]; rfl⟩, fun _ _ => by omega, fun _ _ => by omega,
        by rw [hs], hm, hf⟩
    · by_cases href : ref < 2872 ∨ 3272 < ref
      · obtain ⟨t, he, he', hr, hcomp, hs, hm, hf⟩ := calibrate_completes hc hl (hcal.trans ((if_neg hz).trans (if_pos href)))
        exact ⟨t, he, he', hr, fun h => absurd h hz, fun _ _ _ => ⟨hcomp, by rw [hs]; rfl, by rw [hs]; rfl⟩,
          fun _ _ _ _ => by omega, by rw [hs], hm, hf⟩
      · obtain ⟨t, he, he', hr, hcomp, hs, hm, hf⟩ := calibrate_completes hc hl (hcal.trans ((if_neg hz).trans (if_neg href)))
        have hgain : 3772 ≤ gain ∧ gain ≤ 4481 := gain_bounds (by omega) (by omega) (by omega) (by omega)
        refine ⟨t, he, he', hr, fun h => absurd h hz, fun _ _ h => absurd h href,
          fun _ _ _ _ => ⟨hcomp, by rw [hs]; rfl, ?_, hgain⟩, by rw [hs], hm, hf⟩
        rw [hs]
        exact Int.toNat_of_nonneg (show (0 : Int) ≤ gain by omega)
  · intro zs rs cz cr passed
    have hpassed : (!(decide (-24 ≤ cz) && decide (cz ≤ 24) && decide (3048 ≤ cr) && decide (cr ≤ 3096))) = true ↔ ¬passed := by
      simp only [Bool.not_eq_true', ← Bool.not_eq_true, Bool.and_eq_true, decide_eq_true_eq, passed, and_assoc]
    obtain ⟨t, he, he', hr, hcomp, hm, hf⟩ := selftest_completes hc hl (selfCheckOf_last hl (m.reference.toNat : Int))
    change CompletedOver s.port.ncause s t notify 3 .ok (le16 (i16 cz) ++ le16 (i16 cr) ++
      [flagBit (!(decide (-24 ≤ cz) && decide (cz ≤ 24) && decide (3048 ≤ cr) && decide (cr ≤ 3096))) 0]) at hcomp
    refine ⟨t, he, he', hr, fun hp => ?_, fun hp => ?_, hm, hf⟩
    · rw [Bool.eq_false_iff.2 fun h => hpassed.1 h hp] at hcomp
      exact hcomp
    · rw [hpassed.2 hp] at hcomp
      exact hcomp

end Sys2Proof.Machine
end

section
/-! The Profile Store's directives and the Capture Unit's (R82 to R84, R86, R87, R89, R161, R163). -/

namespace Sys2Proof.Machine

/-! ### PROFILE_LOAD and PROFILE_DROP (R83, R89) -/

/-- A staging image is not touched by what lands in a directive entry. -/
theorem readStaging_posted {m x : Memory} {e : BitVec 5} (h : Lands (InRun (entryAddr e) 32) m x) (j : Fin 16) :
    readStaging x j = readStaging m j := by
  have hread (a : Nat) (ha : 0x1000 ≤ a) : memRead16 x a = memRead16 m a := by
    have := entryAddr_bounds e
    rw [memRead16, memRead16, h.kept a (by simp only [InRun]; omega), h.kept (a + 1) (by simp only [InRun]; omega)]
  have hs (k : Nat) : memRead16 x (stagingAddr j + k) = memRead16 m (stagingAddr j + k) :=
    hread _ (by unfold stagingAddr; omega)
  have h0 := hs 0
  rw [Nat.add_zero] at h0
  simp only [readStaging, Nat.add_assoc, hs, h0]

theorem takeProfileLoad_row {j : Fin 16} {b : Byte} (hb : b.toNat = j.val) (u : State) :
    takeProfileLoad (rowArgs [b]) u = .active (fillBuffer j u) (.profileLoad j) (some 1) := by
  have h4 : arg8 (rowArgs [b]) 4 = j.val := by
    rw [arg8_rowArgs (by omega)]
    exact hb
  simp only [takeProfileLoad, h4, dif_pos j.isLt]

theorem takeProfileDrop_row {j : Fin 16} {b : Byte} (hb : b.toNat = j.val) (u : State) :
    takeProfileDrop (rowArgs [b]) u = .done (dropProfile j u) [] := by
  have h4 : arg8 (rowArgs [b]) 4 = j.val := by
    rw [arg8_rowArgs (by omega)]
    exact hb
  simp only [takeProfileDrop, h4, dif_pos j.isLt]

/-! ### The completion of a load (R86, R87) -/

theorem finishLoad_of_valid {s : State} {b : LoadBuffer} (hb : s.store.buffer = some b) (hv : imageFault b = none) :
    finishLoad s = { s with store := ⟨s.store.slots.set b.target.val (some b.image) b.target.isLt, none⟩ } := by
  simp only [finishLoad, hb, hv]
  rfl

theorem finishLoad_of_faulty {s : State} {b : LoadBuffer} {f : ImageFault} (hb : s.store.buffer = some b)
    (hv : imageFault b = some f) : finishLoad s = { s with store := ⟨s.store.slots, none⟩ } := by
  simp only [finishLoad, hb, hv]
  rfl

theorem answerLoad_of_valid {s : State} {b : LoadBuffer} (hb : s.store.buffer = some b) (hv : imageFault b = none) :
    answerLoad s = .done (finishLoad s) [0, 0] := by
  rw [answerLoad, hb, Option.bind_some, hv]

theorem answerLoad_of_faulty {s : State} {b : LoadBuffer} {f : ImageFault} (hb : s.store.buffer = some b)
    (hv : imageFault b = some f) :
    answerLoad s = .failed (finishLoad s) .profileInvalid [byteOf f.point, byteOf f.kind] := by
  rw [answerLoad, hb, Option.bind_some, hv]

/-- Settles O50: the take and the drop over the posted memory, the completion by the buffer's first fault. -/
theorem profilesLoadAndDropWhole : Obligations.ProfilesLoadAndDropWhole := by
  refine ⟨fun s b notify h => ⟨fun hb => ⟨?_, ?_⟩, fun j hb => ⟨?_, ?_⟩⟩,
    fun m j => ⟨rfl, rfl, rfl, rfl, fun i => ⟨?_, ?_⟩⟩, fun s m j notify b hc hbuf => ?_⟩
  · refine row_failed (c := .profileLoad b notify) (kind := 0x06) rfl h fun x =>
      (take_row h (by decide) (by decide) (by decide) _ x).trans (dif_neg ?_)
    rw [arg8_rowArgs (by omega)]
    exact not_lt.2 hb
  · refine row_failed (c := .profileDrop b notify) (kind := 0x07) rfl h fun x =>
      (take_row h (by decide) (by decide) (by decide) _ x).trans (dif_neg ?_)
    rw [arg8_rowArgs (by omega)]
    exact not_lt.2 hb
  · obtain ⟨x, t, he, hl, ha, hm, hf⟩ := row_active (c := .profileLoad b notify) (kind := 0x06) rfl h
      (fun x => (take_row h (by decide) (by decide) (by decide) _ x).trans (takeProfileLoad_row hb _))
      (fun _ => rfl) (fun _ => rfl) (fun _ => rfl)
    refine ⟨t, he, ha, hm, ?_⟩
    rw [← readStaging_posted hl j]
    exact hf
  · obtain ⟨x, t, he, hc, hm, hf⟩ := row_done_quiet (c := .profileDrop b notify) (kind := 0x07) rfl h
      (fun x => (take_row h (by decide) (by decide) (by decide) _ x).trans (takeProfileDrop_row hb _))
      (fun _ => rfl) (fun _ => rfl) (fun _ => rfl)
    exact ⟨t, he, hc, hm, hf⟩
  · simp [readStaging, stagingAddr]
  · simp [readStaging, stagingAddr]
  · obtain ⟨hf, ha, -⟩ := id hc
    have hsame : exec .profileLoadCompletion s = exec (.directiveStepEvent m) s := by
      obtain ⟨-, -, -, -, -, hload, -⟩ := innerStepsAreTheirEnclosingEvents
      exact hload s m ⟨j, 1, notify, ha, le_refl 1⟩
    cases hv : imageFault b with
    | none =>
      have hanswer : answerTimed (.profileLoad j) (stepMeasurement (.profileLoad j) m s) = .done (finishLoad s) [0, 0] :=
        answerLoad_of_valid hbuf hv
      obtain ⟨t, he, hr, hcomp, hm, hfr⟩ := exec_directiveStepEvent_completes (m := m) hf
        (directiveStep_done hc hanswer (by rw [finishLoad_frame]) (by rw [finishLoad_frame]))
        (by rw [finishLoad_frame]) (by rw [finishLoad_frame]) (by rw [finishLoad_frame])
      rw [finishLoad_of_valid hbuf hv] at hfr
      have hs : t.store = ⟨s.store.slots.set b.target.val (some b.image) b.target.isLt, none⟩ := by rw [hfr]
      exact ⟨t, hsame.trans he, he, hr, fun _ => ⟨hcomp, hs⟩, nofun, hm, by rw [hs]; exact hfr⟩
    | some f =>
      have hanswer : answerTimed (.profileLoad j) (stepMeasurement (.profileLoad j) m s) =
          .failed (finishLoad s) .profileInvalid [byteOf f.point, byteOf f.kind] := answerLoad_of_faulty hbuf hv
      obtain ⟨t, he, hr, hcomp, hm, hfr⟩ := exec_directiveStepEvent_completes (m := m) hf
        (directiveStep_failed hc hanswer (by rw [finishLoad_frame]) (by rw [finishLoad_frame]))
        (by rw [finishLoad_frame]) (by rw [finishLoad_frame]) (by rw [finishLoad_frame])
      rw [finishLoad_of_faulty hbuf hv] at hfr
      have hs : t.store = ⟨s.store.slots, none⟩ := by rw [hfr]
      refine ⟨t, hsame.trans he, he, hr, nofun, fun f' hf' => ?_, hm, by rw [hs]; exact hfr⟩
      cases hf'
      exact ⟨hcomp, hs⟩

end Sys2Proof.Machine
end

section
/-! CAPTURE_START and CAPTURE_STOP (R161, R163). -/

namespace Sys2Proof.Machine

/-! ### The tags (R161) -/

/-- Tag i of a list is in range and repeats none before it, nor any already seen. -/
def TagGood (seen tags : List Byte) (i : Nat) : Prop :=
  ∃ tag, tags[i]? = some tag ∧ tagInRange tag = true ∧ tag ∉ seen ∧ ∀ j, j < i → tags[j]? ≠ some tag

theorem tagGood_cons (seen : List Byte) (tag : Byte) (tags : List Byte) (i : Nat) :
    TagGood seen (tag :: tags) (i + 1) ↔ TagGood (tag :: seen) tags i := by
  unfold TagGood
  refine exists_congr fun x => and_congr (by rw [List.getElem?_cons_succ]) (and_congr Iff.rfl ?_)
  rw [List.mem_cons, not_or]
  constructor
  · rintro ⟨hseen, hbefore⟩
    refine ⟨⟨fun hx => hbefore 0 (by omega) (by rw [hx]; rfl), hseen⟩, fun j hj => ?_⟩
    have := hbefore (j + 1) (by omega)
    rwa [List.getElem?_cons_succ] at this
  · rintro ⟨⟨hx, hseen⟩, hbefore⟩
    refine ⟨hseen, fun j hj => ?_⟩
    cases j with
    | zero => exact fun h => hx (Option.some.inj h).symm
    | succ j =>
      rw [List.getElem?_cons_succ]
      exact hbefore j (by omega)

theorem tagGood_zero (seen : List Byte) (tag : Byte) (tags : List Byte) :
    TagGood seen (tag :: tags) 0 ↔ tagInRange tag = true ∧ tag ∉ seen := by
  constructor
  · rintro ⟨x, hx, hr, hs, -⟩
    cases hx
    exact ⟨hr, hs⟩
  · rintro ⟨hr, hs⟩
    exact ⟨tag, rfl, hr, hs, fun j hj => absurd hj (Nat.not_lt_zero j)⟩

theorem tagFault_head (n : Nat) (seen : List Byte) (tag : Byte) (tags : List Byte) :
    tagFault n seen (tag :: tags) =
      if tagInRange tag = true ∧ tag ∉ seen then tagFault (n + 1) (tag :: seen) tags else some n := by
  rw [tagFault]
  by_cases h : tagInRange tag = true ∧ tag ∉ seen
  · rw [if_pos h, if_neg (by simp [h.1, h.2])]
  · rw [if_neg h, if_pos]
    rw [not_and_or, not_not, Bool.not_eq_true] at h
    simpa using h

/-- The fault's number is that of the first bad tag. -/
theorem tagFault_some (tags : List Byte) : ∀ (n : Nat) (seen : List Byte) (i : Nat), i < tags.length →
    ¬TagGood seen tags i → (∀ j, j < i → TagGood seen tags j) → tagFault n seen tags = some (n + i) := by
  induction tags with
  | nil => exact fun n seen i h => absurd h (Nat.not_lt_zero i)
  | cons tag tags ih =>
    intro n seen i hi hbad hgood
    rw [tagFault_head]
    cases i with
    | zero => rw [if_neg (mt (tagGood_zero seen tag tags).2 hbad), Nat.add_zero]
    | succ i =>
      rw [if_pos ((tagGood_zero seen tag tags).1 (hgood 0 (by omega))),
        ih (n + 1) (tag :: seen) i (Nat.lt_of_succ_lt_succ hi) (mt (tagGood_cons seen tag tags i).2 hbad)
          fun j hj => (tagGood_cons seen tag tags j).1 (hgood (j + 1) (by omega))]
      congr 1
      omega

/-- Without a bad tag there is no fault. -/
theorem tagFault_none (tags : List Byte) : ∀ (n : Nat) (seen : List Byte), (∀ i, i < tags.length → TagGood seen tags i) →
    tagFault n seen tags = none := by
  induction tags with
  | nil => exact fun n seen h => rfl
  | cons tag tags ih =>
    intro n seen hgood
    rw [tagFault_head, if_pos ((tagGood_zero seen tag tags).1 (hgood 0 (by simp)))]
    exact ih (n + 1) (tag :: seen) fun i hi => (tagGood_cons seen tag tags i).1 (hgood (i + 1) (Nat.succ_lt_succ hi))

/-- A row's tag by the ranges of R161. -/
theorem tagGood_row (tags : Vector Byte 8) {n : Nat} (i : Fin 8) (hi : i.val < n) :
    TagGood [] (tags.toList.take n) i ↔
      (tags[i].toNat ≤ 10 ∨ (16 ≤ tags[i].toNat ∧ tags[i].toNat ≤ 32)) ∧ ∀ j, j < i → tags[j] ≠ tags[i] := by
  have hget (j : Fin 8) (hj : j.val < n) : (tags.toList.take n)[j.val]? = some tags[j] := by
    rw [List.getElem?_take_of_lt hj, List.getElem?_eq_getElem (by simp)]
    simp
  have hrange : tagInRange tags[i] = true ↔ tags[i].toNat ≤ 10 ∨ (16 ≤ tags[i].toNat ∧ tags[i].toNat ≤ 32) := by
    simp [tagInRange]
  unfold TagGood
  rw [hget i hi, ← hrange]
  constructor
  · rintro ⟨x, hx, hr, -, hb⟩
    cases hx
    exact ⟨hr, fun j hj he => hb j.val hj (by rw [hget j (lt_trans hj hi), he])⟩
  · rintro ⟨hr, hb⟩
    refine ⟨_, rfl, hr, List.not_mem_nil, fun j hj he => ?_⟩
    rw [hget ⟨j, by omega⟩ (by simp; omega)] at he
    exact hb ⟨j, by omega⟩ hj (Option.some.inj he)

/-! ### CAPTURE_START (R161) -/

theorem takeCaptureStart_row (b : Byte) (tags : Vector Byte 8) (d : Byte) (threshold : Half) (u : State) :
    takeCaptureStart (rowArgs ([b] ++ tags.toList ++ [d] ++ le16 threshold)) u =
      if b.toNat = 0 ∨ 8 < b.toNat then badArgument u 1
      else match tagFault 2 [] (tags.toList.take b.toNat) with
        | some n => badArgument u n
        | none =>
          if d.toNat = 0 then badArgument u 10
          else if 1023 < threshold.toNat then badArgument u 11
          else .done (startCapture (tags.toList.take b.toNat) d.toNat threshold.toNat u) [] := by
  generalize ha : [b] ++ tags.toList ++ [d] ++ le16 threshold = a
  have h4 : arg8 (rowArgs a) 4 = b.toNat := by rw [arg8_rowArgs (by omega), ← ha]; rfl
  have h13 : arg8 (rowArgs a) 13 = d.toNat := by rw [arg8_rowArgs (by omega), ← ha]; simp
  have h14 : arg16 (rowArgs a) 14 = threshold := by
    rw [arg16_rowArgs (by omega), ← ha]
    simp [le16]
    exact le16_join threshold
  have htags (hb : b.toNat ≤ 8) : ((rowArgs a).drop 1).take b.toNat = tags.toList.take b.toNat := by
    have hdrop : (rowArgs a).drop 1 = (tags.toList ++ ([d] ++ le16 threshold ++ zeros 20)).take 19 := by
      rw [rowArgs, List.drop_take, ← ha]
      simp
    rw [hdrop, List.take_take, min_eq_left (by omega), List.take_append_of_le_length (by simpa using hb)]
  simp only [takeCaptureStart, argNat, h4, h13, h14]
  split
  · rfl
  · rw [htags (by omega)]
    all_goals rfl

/-- The row of CAPTURE_START where the governor state accepts it. -/
theorem captureStart_accepted {s : State}
    (hg : s.governor.state = .idle ∨ s.governor.state = .running) (b : Byte) (tags : Vector Byte 8) (d : Byte)
    (threshold : Half) (x : Memory) :
    takeDirective 0x0A (rowArgs ([b] ++ tags.toList ++ [d] ++ le16 threshold)) (postedOver s x) =
      takeCaptureStart (rowArgs ([b] ++ tags.toList ++ [d] ++ le16 threshold)) (postedOver s x) :=
  takeDirective_accepted (by decide) (by
    show accepted 10 s.governor.state = true
    rcases hg with hg | hg <;> rw [hg] <;> rfl)

/-- What a CAPTURE_START leaves, whatever it answers. -/
def CaptureStartLeaves (s t : State) : Prop :=
  MemoryKept (EntryOrMirror s) s t ∧
    t = { s with capture := t.capture, directives := t.directives, port := t.port, xm := t.xm }

section Start
variable {s : State} {b : Byte} {tags : Vector Byte 8} {d : Byte} {threshold : Half} {notify : Bool}

/-- A refused CAPTURE_START. -/
theorem captureStart_failed {why : ResultCode} {data : List Byte} (h : ReadyForOne s)
    (ht : ∀ x, takeDirective 0x0A (rowArgs ([b] ++ tags.toList ++ [d] ++ le16 threshold)) (postedOver s x) =
      .failed (postedOver s x) why data) :
    ∃ t, exec (.captureStart b tags d threshold notify) s = .next t ∧
      (CompletedAtCursor s t notify 4 why data ∧ t.capture = s.capture) ∧ CaptureStartLeaves s t := by
  obtain ⟨t, he, hc, hm, hf⟩ := row_failed (c := .captureStart b tags d threshold notify) rfl h ht
  have hs : t.capture = s.capture := by rw [hf]
  exact ⟨t, he, ⟨hc, hs⟩, hm, by rw [hs]; exact hf⟩

/-- An accepted CAPTURE_START. -/
theorem captureStart_done (h : ReadyForOne s)
    (ht : ∀ x, takeDirective 0x0A (rowArgs ([b] ++ tags.toList ++ [d] ++ le16 threshold)) (postedOver s x) =
      .done (startCapture (tags.toList.take b.toNat) d.toNat threshold.toNat (postedOver s x)) []) :
    ∃ t, exec (.captureStart b tags d threshold notify) s = .next t ∧
      (CompletedAtCursor s t notify 3 .ok [] ∧ t.capture = { s.capture with
        on := true
        sources := tags.toList.take b.toNat
        decimation := d.toNat
        threshold := threshold.toNat
        count := d.toNat
        startFresh := true
        above := false }) ∧ CaptureStartLeaves s t := by
  obtain ⟨x, t, he, hc, hm, hf⟩ := row_done_quiet (c := .captureStart b tags d threshold notify) rfl h ht
    (fun _ => rfl) (fun _ => rfl) (fun _ => rfl)
  have hs : t.capture = (startCapture (tags.toList.take b.toNat) d.toNat threshold.toNat (postedOver s x)).capture := by
    rw [hf]
  exact ⟨t, he, ⟨hc, hs⟩, hm, by rw [hs]; exact hf⟩

end Start

/-! ### CAPTURE_STOP (R163) -/

theorem takeCaptureStop_waits {u : State} (h : u.capture.on = true ∧ u.capture.burst ≠ none) :
    takeCaptureStop u = .active u .captureStop none :=
  if_pos ⟨h.1, Option.isSome_iff_ne_none.2 h.2⟩

theorem takeCaptureStop_at_once {u : State} (h : u.capture.on = false ∨ u.capture.burst = none) :
    takeCaptureStop u = .done (stopCapture u) [] := by
  refine if_neg fun ⟨hon, hburst⟩ => ?_
  rcases h with h | h
  · rw [h] at hon
    cases hon
  · rw [h] at hburst
    cases hburst

/-- A directive without a timer is left by the step event. -/
theorem directiveStep_of_waiting {s : State} {kind : ActiveKind} {notify : Bool} (m : Measurement)
    (h : s.directives.active = some ⟨kind, none, notify⟩) : directiveStep m s = s := by
  rw [directiveStep, h]

/-- The first index that fails. -/
theorem exists_first_bad {P : Fin 8 → Prop} {n : Nat} (h : ¬∀ i : Fin 8, i.val < n → P i) :
    ∃ i : Fin 8, i.val < n ∧ ¬P i ∧ ∀ j, j < i → P j := by
  simp only [not_forall] at h
  obtain ⟨k, hk, hbad⟩ := h
  obtain ⟨i, ⟨hi, hnot⟩, hmin⟩ := wellFounded_lt.has_min {i : Fin 8 | i.val < n ∧ ¬P i} ⟨k, hk, hbad⟩
  exact ⟨i, hi, hnot, fun j hj => not_not.1 fun hp => hmin j ⟨lt_trans hj hi, hp⟩ hj⟩

/-- Settles O52: the start by its first bad argument, the stop by the burst in flight. -/
theorem captureStartsAndStops : Obligations.CaptureStartsAndStops := by
  refine ⟨fun s b tags d threshold notify h => ?_, fun s m notify ha => ?_, fun s notify h => ⟨fun hoff => ?_, fun hon hb => ?_⟩⟩
  · intro good
    by_cases hg : s.governor.state = .stopping ∨ s.governor.state = .stopped
    · have hacc : accepted (0x0A : Byte).toNat s.governor.state = false := by rcases hg with hg | hg <;> rw [hg] <;> rfl
      obtain ⟨t, he, hc, hm, hf⟩ := captureStart_failed (notify := notify) h fun x =>
        takeDirective_refused (u := postedOver s x) (by decide) hacc
      exact ⟨t, he, fun _ => hc, fun hr => by rcases hg with hg | hg <;> rw [hg] at hr <;> simp at hr, hm, hf⟩
    · have hrun : s.governor.state = .idle ∨ s.governor.state = .running := by
        obtain ⟨-, hinit, -⟩ := h
        cases hst : s.governor.state <;> simp_all
      have htake (x : Memory) := (captureStart_accepted hrun b tags d threshold x).trans
        (takeCaptureStart_row b tags d threshold (postedOver s x))
      by_cases hb : b.toNat = 0 ∨ 8 < b.toNat
      · obtain ⟨t, he, hc, hm, hf⟩ := captureStart_failed (notify := notify) h fun x => (htake x).trans (if_pos hb)
        refine ⟨t, he, fun hn => absurd hn hg, fun _ => ⟨fun _ => hc, fun h0 h8 => ?_⟩, hm, hf⟩
        rw [ne_eq, ← byte_toNat_eq_zero] at h0
        omega
      · have hlen : (tags.toList.take b.toNat).length = b.toNat := by
          rw [List.length_take, Vector.length_toList]
          omega
        have hcount : ¬(b = 0 ∨ 8 < b.toNat) := by rwa [← byte_toNat_eq_zero]
        by_cases hall : ∀ i : Fin 8, i.val < b.toNat → good i
        · have hnone : tagFault 2 [] (tags.toList.take b.toNat) = none := tagFault_none _ _ _ fun i hi => by
            rw [hlen] at hi
            exact (tagGood_row tags ⟨i, by omega⟩ hi).2 (hall ⟨i, by omega⟩ hi)
          replace htake (x : Memory) := (htake x).trans (if_neg hb)
          simp only [hnone] at htake
          by_cases hd : d.toNat = 0
          · obtain ⟨t, he, hc, hm, hf⟩ := captureStart_failed (notify := notify) h fun x => (htake x).trans (if_pos hd)
            have hd' : d = 0 := byte_toNat_eq_zero.1 hd
            exact ⟨t, he, fun hn => absurd hn hg, fun _ => ⟨fun hn => absurd hn hcount, fun _ _ =>
              ⟨fun i hi hbad _ => absurd (hall i hi) hbad,
                fun _ => ⟨fun _ => hc, fun hn => absurd hd' hn, fun hn => absurd hd' hn⟩⟩⟩, hm, hf⟩
          · have hd' : d ≠ 0 := mt byte_toNat_eq_zero.2 hd
            by_cases hth : 1023 < threshold.toNat
            · obtain ⟨t, he, hc, hm, hf⟩ := captureStart_failed (notify := notify) h fun x =>
                (htake x).trans ((if_neg hd).trans (if_pos hth))
              exact ⟨t, he, fun hn => absurd hn hg, fun _ => ⟨fun hn => absurd hn hcount, fun _ _ =>
                ⟨fun i hi hbad _ => absurd (hall i hi) hbad,
                  fun _ => ⟨fun hn => absurd hn hd', fun _ _ => hc, fun _ hn => absurd hth (not_lt.2 hn)⟩⟩⟩, hm, hf⟩
            · obtain ⟨t, he, hc, hm, hf⟩ := captureStart_done (notify := notify) h fun x =>
                (htake x).trans ((if_neg hd).trans (if_neg hth))
              exact ⟨t, he, fun hn => absurd hn hg, fun _ => ⟨fun hn => absurd hn hcount, fun _ _ =>
                ⟨fun i hi hbad _ => absurd (hall i hi) hbad,
                  fun _ => ⟨fun hn => absurd hn hd', fun _ hn => absurd hn hth, fun _ _ => hc⟩⟩⟩, hm, hf⟩
        · obtain ⟨i, hi, hbad, hfirst⟩ := exists_first_bad hall
          have hsome : tagFault 2 [] (tags.toList.take b.toNat) = some (2 + i.val) :=
            tagFault_some _ _ _ _ (by omega) (mt (tagGood_row tags i hi).1 hbad) fun j hj =>
              (tagGood_row tags ⟨j, by omega⟩ (by simp; omega)).2 (hfirst ⟨j, by omega⟩ hj)
          replace htake (x : Memory) := (htake x).trans (if_neg hb)
          simp only [hsome] at htake
          obtain ⟨t, he, hc, hm, hf⟩ := captureStart_failed (notify := notify) h htake
          refine ⟨t, he, fun hn => absurd hn hg, fun _ => ⟨fun hn => absurd hn hcount, fun _ _ =>
            ⟨fun k hk hkbad hkfirst => ?_, fun hgood => absurd hgood hall⟩⟩, hm, hf⟩
          obtain hlt | rfl | hlt := lt_trichotomy i k
          · exact absurd (hkfirst i hlt) hbad
          · rwa [Nat.add_comm] at hc
          · exact absurd (hfirst k hlt) hkbad
  · show Host.Outcome.next (unlessHeld (directiveStep m) s) = _
    rw [unlessHeld, directiveStep_of_waiting m ha, ite_self]
  · obtain ⟨x, t, he, hc, hm, hf⟩ := row_done_quiet (c := .captureStop notify) (kind := 0x0B) (a := []) rfl h
      (fun x => (take_row h (by decide) (by decide) (by decide) _ x).trans (takeCaptureStop_at_once hoff))
      (fun _ => rfl) (fun _ => rfl) (fun _ => rfl)
    exact ⟨t, he, hc, hm, hf⟩
  · obtain ⟨x, t, he, -, ha, hm, hf⟩ := row_active (c := .captureStop notify) (kind := 0x0B) (a := []) rfl h
      (fun x => (take_row h (by decide) (by decide) (by decide) _ x).trans (takeCaptureStop_waits ⟨hon, hb⟩))
      (fun _ => rfl) (fun _ => rfl) (fun _ => rfl)
    exact ⟨t, he, ha, hm, hf⟩

end Sys2Proof.Machine
end

section
/-! Runs of entries round the ring; PAUSE and CLEAR_PENDING (R156, R159, R160). -/

namespace Sys2Proof.Machine

/-! ### Entries round the ring -/

/-- What an entry shows of the part's own bytes: state, result code, result data. -/
def EntryReads (m : Memory) (e : BitVec 5) (st code : Byte) (data : List Byte) : Prop :=
  entryState m e = st ∧ memRead m (entryAddr e + 3) = code ∧ memBytes m (entryAddr e + 24) 8 = data

/-- The bytes of an entry that the part writes (R149). -/
def EntryBytes (e : BitVec 5) (x : Nat) : Prop :=
  x = entryAddr e ∨ x = entryAddr e + 3 ∨ InRun (entryAddr e + 24) 8 x

/-- Those bytes of the n entries from e on. -/
def RunBytes (e : BitVec 5) (n : Nat) (x : Nat) : Prop :=
  ∃ i, i < n ∧ EntryBytes (e + BitVec.ofNat 5 i) x

theorem ring_zero (e : BitVec 5) : e + BitVec.ofNat 5 0 = e :=
  BitVec.add_zero e

theorem ring_succ (e : BitVec 5) (i : Nat) : e + 1 + BitVec.ofNat 5 i = e + BitVec.ofNat 5 (i + 1) := by
  have h1 : (1 : BitVec 5).toNat = 1 := rfl
  refine BitVec.eq_of_toNat_eq ?_
  simp only [BitVec.toNat_add, BitVec.toNat_ofNat, h1]
  omega

theorem ring_add_one (e : BitVec 5) (i : Nat) : e + BitVec.ofNat 5 i + 1 = e + BitVec.ofNat 5 (i + 1) := by
  have h1 : (1 : BitVec 5).toNat = 1 := rfl
  refine BitVec.eq_of_toNat_eq ?_
  simp only [BitVec.toNat_add, BitVec.toNat_ofNat, h1]
  omega

/-- Fewer than 32 entries from e on are different ones. -/
theorem ring_ne (e : BitVec 5) {i j : Nat} (hi : i < 32) (hj : j < 32) (h : i ≠ j) :
    e + BitVec.ofNat 5 i ≠ e + BitVec.ofNat 5 j := fun he => by
  have := congrArg BitVec.toNat he
  simp only [BitVec.toNat_add, BitVec.toNat_ofNat] at this
  omega

theorem ring_ne_self (e : BitVec 5) {i : Nat} (hi : i < 32) (h : 0 < i) : e + BitVec.ofNat 5 i ≠ e := by
  have := ring_ne e hi (j := 0) (by omega) (by omega)
  rwa [ring_zero] at this

theorem entryBytes_far {e f : BitVec 5} {x : Nat} (h : EntryBytes f x) (hne : f ≠ e) : ¬InRun (entryAddr e) 32 x := by
  have : f.toNat ≠ e.toNat := fun hh => hne (BitVec.eq_of_toNat_eq hh)
  simp only [EntryBytes, InRun, entryAddr] at *
  omega

theorem entryBytes_ne_mirror {e : BitVec 5} {x : Nat} (h : EntryBytes e x) : x ≠ 6 := by
  have := entryAddr_bounds e
  simp only [EntryBytes, InRun] at h
  omega

theorem entryAddr_inRun (e : BitVec 5) : InRun (entryAddr e) 32 (entryAddr e) :=
  ⟨le_refl _, by omega⟩

/-- An entry's own bytes stand where nothing of the entry is written. -/
theorem EntryReads.of_lands {P : Nat → Prop} {m m' : Memory} {e : BitVec 5} {st code : Byte} {data : List Byte}
    (h : EntryReads m e st code data) (hl : Lands P m m') (hP : ∀ x, InRun (entryAddr e) 32 x → ¬P x) :
    EntryReads m' e st code data := by
  obtain ⟨hst, hcode, hdata⟩ := h
  refine ⟨?_, ?_, ?_⟩
  · rw [entryState, hl.kept _ (hP _ (entryAddr_inRun e))]
    exact hst
  · rw [hl.kept _ (hP _ ⟨Nat.le_add_right _ _, by omega⟩)]
    exact hcode
  · rw [hl.memBytes fun x hx => hP x ⟨by have := hx.1; omega, by have := hx.2; omega⟩]
    exact hdata

theorem putEntry_reads (e : BitVec 5) (st : Byte) (why : ResultCode) (data : List Byte) (s : State) :
    EntryReads (putEntry e st why data s).xm e st why.code ((data ++ zeros 8).take 8) :=
  ⟨by rw [entryState_putEntry, if_pos rfl], putEntry_why _ _ _ _ _, putEntry_data _ _ _ _ _⟩

theorem runBytes_far {e : BitVec 5} {n : Nat} {f : BitVec 5} (h : ∀ i, i < n → e + BitVec.ofNat 5 i ≠ f) {x : Nat}
    (hx : InRun (entryAddr f) 32 x) : ¬RunBytes e n x :=
  fun ⟨i, hi, hb⟩ => entryBytes_far hb (h i hi) hx

theorem completionBytes_iff (s : State) (x : Nat) :
    CompletionBytes s x ↔ EntryBytes s.directives.cursor x ∨ x = 6 := by
  simp only [CompletionBytes, EntryBytes, or_assoc]

/-! ### The discarded run (R160) -/

/-- A posted run of n entries is discarded whole, and nothing else is written. -/
theorem discardRun_spec (fuel : Nat) : ∀ (e : BitVec 5) (s : State) (n : Nat), n ≤ fuel → fuel ≤ 31 →
    (∀ i, i < n → entryState s.xm (e + BitVec.ofNat 5 i) = 1) →
    (n < fuel → entryState s.xm (e + BitVec.ofNat 5 n) ≠ 1) →
    (discardRun fuel e s).2 = n ∧
      (discardRun fuel e s).1 = { s with xm := (discardRun fuel e s).1.xm } ∧
      Lands (RunBytes e n) s.xm (discardRun fuel e s).1.xm ∧
      ∀ i, i < n → EntryReads (discardRun fuel e s).1.xm (e + BitVec.ofNat 5 i) 5 0 (zeros 8) := by
  induction fuel with
  | zero =>
    intro e s n hn _ _ _
    obtain rfl := Nat.le_zero.1 hn
    exact ⟨rfl, rfl, .refl _ _, fun i hi => absurd hi (Nat.not_lt_zero i)⟩
  | succ fuel ih =>
    intro e s n hn hfuel hposted hend
    cases n with
    | zero =>
      have hend' := hend (Nat.succ_pos fuel)
      rw [ring_zero] at hend'
      have hrun : discardRun (fuel + 1) e s = (s, 0) := if_neg hend'
      rw [hrun]
      exact ⟨rfl, rfl, .refl _ _, fun i hi => absurd hi (Nat.not_lt_zero i)⟩
    | succ n =>
      have hfirst := hposted 0 (Nat.succ_pos n)
      rw [ring_zero] at hfirst
      have hrun : discardRun (fuel + 1) e s = ((discardRun fuel (e + 1) (putEntry e 5 .ok [] s)).1,
          (discardRun fuel (e + 1) (putEntry e 5 .ok [] s)).2 + 1) := if_pos hfirst
      have hother (i : Nat) (hi : i < 31) : entryState (putEntry e 5 .ok [] s).xm (e + 1 + BitVec.ofNat 5 i) =
          entryState s.xm (e + BitVec.ofNat 5 (i + 1)) := by
        rw [entryState_putEntry, ring_succ, if_neg (ring_ne_self e (by omega) (by omega))]
      obtain ⟨hcount, hframe, hland, hreads⟩ := ih (e + 1) (putEntry e 5 .ok [] s) n (by omega) (by omega)
        (fun i hi => by rw [hother i (by omega)]; exact hposted (i + 1) (by omega))
        (fun hi => by rw [hother n (by omega)]; exact hend (by omega))
      rw [hrun]
      refine ⟨congrArg (· + 1) hcount, hframe.trans (by rw [putEntry_frame]), ?_, fun i hi => ?_⟩
      · refine ((putEntry_written e 5 .ok [] s).mono fun x hx => ?_).trans (hland.mono fun x ⟨i, hi, hx⟩ => ?_)
        · exact ⟨0, Nat.succ_pos n, by rw [ring_zero]; exact hx⟩
        · exact ⟨i + 1, Nat.succ_lt_succ hi, by rwa [← ring_succ]⟩
      · cases i with
        | zero =>
          rw [ring_zero]
          refine (putEntry_reads e 5 .ok [] s).of_lands hland fun x hx => runBytes_far (fun j hj => ?_) hx
          rw [ring_succ]
          exact ring_ne_self e (by omega) (by omega)
        | succ i =>
          rw [← ring_succ]
          exact hreads i (by omega)

/-! ### A row whose next entry may be posted -/

/-- A row taken by a part that can take it: its answer brought into the list, and the scan that goes on. -/
theorem issue_taken {s : State} (hp : resetHeld s = false) (hg : s.governor.state ≠ .init)
    (ha : s.directives.active = none) (h2 : entryState s.xm s.directives.cursor ≠ 2) (kind : Byte) (notify : Bool)
    (a : List Byte) : ∃ x, Lands (InRun (entryAddr s.directives.cursor) 32) s.xm x ∧
      issue kind notify a s = scanFrom 31 (settle notify (takeDirective kind (rowArgs a) (postedOver s x))) := by
  have hl := postAtCursor_lands kind notify a (endReading s)
  obtain ⟨hst, hkind, hnotify, hargs⟩ := postAtCursor_reads kind notify a (endReading s) h2
  have hi : issue kind notify a s = nudgeWrite (postAtCursor kind notify a (endReading s)) :=
    unlessHeld_of_free hp
  rw [postAtCursor_postedOver] at hi
  generalize (postAtCursor kind notify a (endReading s)).xm = x at hl hst hkind hnotify hargs hi
  refine ⟨x, hl, hi.trans ?_⟩
  have hnudge : nudgeWrite (postedOver s x) = scan (postedOver s x) :=
    if_neg (by show ¬s.directives.active.isSome = true; rw [ha]; simp)
  have hscan : scan (postedOver s x) = scanFrom 32 (postedOver s x) := if_neg hg
  have hfrom : scanFrom 32 (postedOver s x) = scanFrom 31 (takeAtCursor (postedOver s x)) :=
    if_pos ⟨by show s.directives.active.isNone = true; rw [ha]; rfl, hst⟩
  rw [hnudge, hscan, hfrom]
  show scanFrom 31 (settle (entryNotify x s.directives.cursor)
    (takeDirective (entryKind x s.directives.cursor) (entryArgs x s.directives.cursor) (postedOver s x))) = _
  rw [show entryNotify x s.directives.cursor = notify from hnotify, show entryKind x s.directives.cursor = kind from hkind,
    show entryArgs x s.directives.cursor = rowArgs a from hargs]

/-! ### CLEAR_PENDING (R160) -/

theorem clearPending_row {s : State} {n : Nat} {notify : Bool} (hf : resetHeld s = false) (hg : s.governor.state ≠ .init)
    (ha : s.directives.active = none) (h2 : entryState s.xm s.directives.cursor ≠ 2) (hn : n ≤ 31)
    (hposted : ∀ i, i < n → entryState s.xm (s.directives.cursor + 1 + BitVec.ofNat 5 i) = 1)
    (hend : n < 31 → entryState s.xm (s.directives.cursor + 1 + BitVec.ofNat 5 n) ≠ 1) :
    ∃ t, exec (.clearPending notify) s = .next t ∧ CompletedAtCursor s t notify 3 .ok [byteOf n] ∧
      (∀ i, i < n → EntryReads t.xm (s.directives.cursor + 1 + BitVec.ofNat 5 i) 5 0 (zeros 8)) ∧
      MemoryKept (fun a => EntryOrMirror s a ∨ RunBytes (s.directives.cursor + 1) n a) s t ∧
      t = { s with directives := t.directives, port := t.port, xm := t.xm } := by
  obtain ⟨x, hl, hi⟩ := issue_taken hf hg ha h2 0x0E notify []
  have hother (i : Nat) (hi : i < 31) : s.directives.cursor + 1 + BitVec.ofNat 5 i ≠ s.directives.cursor := by
    rw [ring_succ]
    exact ring_ne_self _ (by omega) (by omega)
  have hkept (i : Nat) (hi : i < 31) : entryState x (s.directives.cursor + 1 + BitVec.ofNat 5 i) =
      entryState s.xm (s.directives.cursor + 1 + BitVec.ofNat 5 i) :=
    hl.kept _ (entryBytes_far (.inl rfl) (hother i hi))
  obtain ⟨hcount, hframe, hland, hreads⟩ := discardRun_spec 31 (s.directives.cursor + 1) (postedOver s x) n hn le_rfl
    (fun i hi => (hkept i (by omega)).trans (hposted i hi)) (fun hi => by
      rw [show (postedOver s x).xm = x from rfl, hkept n hi]
      exact hend hi)
  have htake : takeDirective 0x0E (rowArgs []) (postedOver s x) =
      .done (discardRun 31 (s.directives.cursor + 1) (postedOver s x)).1 [byteOf n] := by
    refine (takeDirective_accepted (u := postedOver s x) (by decide) (accepted_anywhere hg (by decide) (by decide))).trans ?_
    rw [← hcount]
    rfl
  generalize (discardRun 31 (s.directives.cursor + 1) (postedOver s x)).1 = u at hframe hland hreads htake
  have hd : u.directives = s.directives := by
    rw [hframe]
    rfl
  obtain ⟨hc, hr, hm, hfr⟩ := completeEntry_over (s := s) (u := u) (causes := s.port.ncause) (reading := none)
    (W := fun y => InRun (entryAddr s.directives.cursor) 32 y ∨ RunBytes (s.directives.cursor + 1) n y)
    3 .ok [byteOf n] notify hd (by rw [hframe]; rfl) ((hl.mono fun _ => .inl).trans (hland.mono fun _ => .inr))
  have hbytes := completeEntry_bytes 3 .ok [byteOf n] notify (s := s) (u := u) (by rw [hd])
  have hshows (i : Nat) (hi : i < n) : EntryReads (completeEntry 3 .ok [byteOf n] notify u).xm
      (s.directives.cursor + 1 + BitVec.ofNat 5 i) 5 0 (zeros 8) := by
    refine (hreads i hi).of_lands hbytes fun y hy hcb => ?_
    rcases (completionBytes_iff s y).1 hcb with he | he
    · exact entryBytes_far he (hother i (by omega)).symm hy
    · have := entryAddr_bounds (s.directives.cursor + 1 + BitVec.ofNat 5 i)
      have := hy.1
      omega
  have hstop : scanFrom 31 (completeEntry 3 .ok [byteOf n] notify u) = completeEntry 3 .ok [byteOf n] notify u := by
    refine scanFrom_stops (.inr ?_) 31
    rw [hc.2.1]
    cases n with
    | zero =>
      have hnot := hend (by omega)
      rw [ring_zero] at hnot
      show entryState _ (s.directives.cursor + 1) ≠ 1
      rw [completeEntry_entryState, hd, if_neg (cursor_next_ne _), entryState,
        hland.kept _ (runBytes_far (n := 0) (fun i hi => absurd hi (Nat.not_lt_zero i)) (entryAddr_inRun _))]
      have := hkept 0 (by omega)
      rw [ring_zero] at this
      exact fun h => hnot (this.symm.trans h)
    | succ n =>
      have := (hshows 0 (Nat.succ_pos n)).1
      rw [ring_zero] at this
      exact fun h => absurd (this.symm.trans h) (by decide)
  have hexec : exec (.clearPending notify) s = .next (issue 0x0E notify [] s) := rfl
  rw [hi, htake, settle, hstop] at hexec
  refine ⟨_, hexec, ⟨hc, hr⟩, hshows, fun y hy => hm y ?_, ?_⟩
  · rintro (hb | hb | hb)
    · exact hy (.inl (completionBytes_entryOrMirror hb))
    · exact hy (.inl (.inl hb))
    · exact hy (.inr hb)
  · rw [hframe] at hfr ⊢
    exact hfr

/-- Settles O53: PAUSE by its count and its steps, CLEAR_PENDING by the run behind it. -/
theorem pauseAndClearPending : Obligations.PauseAndClearPending := by
  have hn4 (n : Byte) : arg8 (rowArgs [n]) 4 = n.toNat := arg8_rowArgs (by omega)
  refine ⟨fun s notify h => ⟨?_, fun n hn => ?_⟩, fun s m n k notify hf ha => ?_, fun s m n notify hc => ?_,
    fun s n notify hf hg ha h2 hn hposted hend => clearPending_row hf hg ha h2 hn hposted hend⟩
  · have htake (u : State) : takePause (rowArgs [0]) u = badArgument u 1 := by
      have h0 : arg8 (rowArgs [0]) 4 = 0 := hn4 0
      rw [takePause, if_pos h0]
    exact row_failed (c := .pause 0 notify) (kind := 0x0D) rfl h fun x =>
      (take_row h (by decide) (by decide) (by decide) _ x).trans (htake _)
  · have htake (u : State) : takePause (rowArgs [n]) u = .active u (.pause n.toNat) (some n.toNat) := by
      rw [takePause, hn4, if_neg (mt byte_toNat_eq_zero.1 hn)]
    obtain ⟨x, t, he, -, ha, hm, hf⟩ := row_active (c := .pause n notify) (kind := 0x0D) rfl h
      (fun x => (take_row h (by decide) (by decide) (by decide) _ x).trans (htake _))
      (fun _ => rfl) (fun _ => rfl) (fun _ => rfl)
    exact ⟨t, he, ha, hm, hf⟩
  · exact exec_directiveStepEvent_counts hf ha m
  · obtain ⟨hf, ha, -⟩ := id hc
    have hsame : exec .pauseCompletion s = exec (.directiveStepEvent m) s := by
      obtain ⟨-, -, -, -, -, -, hpause, -⟩ := innerStepsAreTheirEnclosingEvents
      exact hpause s m ⟨n, 1, notify, ha, le_refl 1⟩
    have hanswer : answerTimed (.pause n) (stepMeasurement (.pause n) m s) = .done s [] := rfl
    obtain ⟨t, he, hr, hcomp, hm, hfr⟩ := exec_directiveStepEvent_completes (m := m) hf
      (directiveStep_done hc hanswer rfl rfl) rfl rfl rfl
    exact ⟨t, hsame.trans he, he, hcomp, hr, hm, hfr⟩

end Sys2Proof.Machine
end

section
/-! The scan of the list (R48, R152, R153, R155): a batch taken in one event, once round the ring at most. -/

namespace Sys2Proof.Machine

/-! ### One entry of a batch -/

theorem scanFrom_posted {s : State} (ha : s.directives.active = none) (hp : entryState s.xm s.directives.cursor = 1)
    (fuel : Nat) : scanFrom (fuel + 1) s = scanFrom fuel (takeAtCursor s) :=
  if_pos ⟨by rw [ha]; rfl, hp⟩

/-- A completion does not look at the read in progress. -/
theorem completeEntry_endReading (st : Byte) (why : ResultCode) (data : List Byte) (notify : Bool) (s : State) :
    completeEntry st why data notify (endReading s) = endReading (completeEntry st why data notify s) := by
  cases notify <;> rfl

/-- What a batch has come to after its first i entries, each shown as completed with the given state and code. -/
structure BatchState (st code : Byte) (s : State) (i : Nat) (u : State) : Prop where
  reads : ∀ j, j < i → EntryReads u.xm (s.directives.cursor + BitVec.ofNat 5 j) st code (zeros 8)
  directives : u.directives = ⟨s.directives.cursor + BitVec.ofNat 5 i, none⟩
  mirror : 0 < i → memRead u.xm 6 = (s.directives.cursor + BitVec.ofNat 5 i).setWidth 8
  cause : causeSet .directive u = true ↔ causeSet .directive s = true ∨
    ∃ j, j < i ∧ entryNotify s.xm (s.directives.cursor + BitVec.ofNat 5 j) = true
  causes : u.port.ncause ||| 4 = s.port.ncause ||| 4
  lands : Lands (fun x => x = 6 ∨ RunBytes s.directives.cursor i x) s.xm u.xm
  frame : u = { s with
    supply := u.supply, directives := u.directives, port := { s.port with ncause := u.port.ncause }, xm := u.xm }

theorem BatchState.start (st code : Byte) {s : State} (ha : s.directives.active = none) : BatchState st code s 0 s where
  reads j hj := absurd hj (Nat.not_lt_zero j)
  directives := by
    rw [ring_zero, ← ha]
  mirror h := absurd h (Nat.lt_irrefl 0)
  cause := ⟨.inl, fun h => h.elim id fun ⟨j, hj, _⟩ => absurd hj (Nat.not_lt_zero j)⟩
  causes := rfl
  lands := .refl _ _
  frame := rfl

/-- An entry that the batch has not reached stands as it was. -/
theorem BatchState.kept {st code : Byte} {s u : State} {i : Nat} (h : BatchState st code s i u) (hi : i < 32) {k : Nat}
    (hk : k < 32) : memRead u.xm (entryAddr (s.directives.cursor + BitVec.ofNat 5 i) + k) =
      memRead s.xm (entryAddr (s.directives.cursor + BitVec.ofNat 5 i) + k) := by
  have hrun : InRun (entryAddr (s.directives.cursor + BitVec.ofNat 5 i)) 32
      (entryAddr (s.directives.cursor + BitVec.ofNat 5 i) + k) := ⟨Nat.le_add_right _ _, by omega⟩
  refine h.lands.kept _ ?_
  rintro (h6 | hb)
  · have := entryAddr_bounds (s.directives.cursor + BitVec.ofNat 5 i)
    omega
  · exact runBytes_far (fun j hj => ring_ne _ (by omega) hi (by omega)) hrun hb

theorem causeSet_directive_iff (s : State) : causeSet .directive s = true ↔ s.port.ncause &&& 4 ≠ 0 :=
  decide_eq_true_iff

theorem or_directive_and : ∀ n : BitVec 6, (n ||| 4) &&& 4 ≠ 0 := by
  decide

/-- The next entry completes, its owning block having written the supply at most. -/
theorem BatchState.step {st : Byte} {why : ResultCode} {data : List Byte} {s u v : State} {i : Nat}
    (h : BatchState st why.code s i u) (hi : i < 32) (hdata : (data ++ zeros 8).take 8 = zeros 8)
    (hv : v = { u with supply := v.supply }) :
    BatchState st why.code s (i + 1)
      (completeEntry st why data (entryNotify s.xm (s.directives.cursor + BitVec.ofNat 5 i)) v) := by
  generalize hn : entryNotify s.xm (s.directives.cursor + BitVec.ofNat 5 i) = notify
  have hd : v.directives = ⟨s.directives.cursor + BitVec.ofNat 5 i, none⟩ := by
    rw [hv]
    exact h.directives
  have hx : v.xm = u.xm := by rw [hv]
  have hp : v.port = u.port := by rw [hv]
  obtain ⟨hshows, hdir, hmirror, -⟩ := completeEntry_completed st why data notify v v rfl
  have hbytes := completeEntry_bytes st why data notify (s := v) (u := v) rfl
  have hport := completeEntry_port st why data notify v
  have hfr := completeEntry_frame st why data notify v
  rw [hd] at hdir hmirror
  have hcb (x : Nat) : CompletionBytes v x ↔ EntryBytes (s.directives.cursor + BitVec.ofNat 5 i) x ∨ x = 6 := by
    rw [completionBytes_iff, hd]
  generalize completeEntry st why data notify v = t at *
  refine ⟨fun j hj => ?_, ?_, fun _ => ?_, ?_, ?_, ?_, ?_⟩
  · by_cases hji : j = i
    · subst hji
      obtain ⟨h1, h2, h3⟩ := hshows
      rw [hd] at h1 h2 h3
      exact ⟨h1, h2, h3.trans hdata⟩
    · have hold := h.reads j (by omega)
      rw [← hx] at hold
      refine hold.of_lands hbytes fun x hx' hc => ?_
      rcases (hcb x).1 hc with hc | hc
      · exact entryBytes_far hc (ring_ne _ hi (by omega) (Ne.symm hji)) hx'
      · have := entryAddr_bounds (s.directives.cursor + BitVec.ofNat 5 j)
        have := hx'.1
        omega
  · rw [hdir, ring_add_one]
  · rw [hmirror, ring_add_one]
  · have hset := h.cause
    rw [causeSet_directive_iff] at hset ⊢
    rw [hport, hp]
    cases notify with
    | false =>
      refine hset.trans (or_congr Iff.rfl ⟨fun ⟨j, hj, hj'⟩ => ⟨j, by omega, hj'⟩, fun ⟨j, hj, hj'⟩ => ⟨j, ?_, hj'⟩⟩)
      refine lt_of_le_of_ne (by omega) fun hji => ?_
      rw [hji, hn] at hj'
      cases hj'
    | true => exact ⟨fun _ => .inr ⟨i, by omega, hn⟩, fun _ => or_directive_and _⟩
  · rw [hport, hp, ← h.causes]
    cases notify
    · rfl
    · show (u.port.ncause ||| 4) ||| 4 = u.port.ncause ||| 4
      rw [BitVec.or_assoc, BitVec.or_self]
  · refine (h.lands.mono fun x hx' => ?_).trans ?_
    · exact hx'.imp_right fun ⟨j, hj, hb⟩ => ⟨j, by omega, hb⟩
    · rw [← hx]
      exact hbytes.mono fun x hc => ((hcb x).1 hc).elim (fun hb => .inr ⟨i, by omega, hb⟩) .inl
  · have hsupply : t.supply = v.supply := (congrArg State.supply hfr).trans rfl
    have hdir' : t.directives = ⟨v.directives.cursor + 1, none⟩ := (congrArg State.directives hfr).trans rfl
    have hport' : t.port = { s.port with ncause := t.port.ncause } := by
      rw [hport, hp, h.frame]
    have hv' : v = { s with
        supply := v.supply, directives := u.directives, port := { s.port with ncause := u.port.ncause }, xm := u.xm } :=
      hv.trans (congrArg (fun w : State => { w with supply := v.supply }) h.frame)
    rw [hsupply, ← hport', hdir']
    exact hfr.trans (congrArg (fun w : State =>
      { w with directives := ⟨v.directives.cursor + 1, none⟩, port := t.port, xm := t.xm }) hv')

/-! ### The whole batch -/

/-- A batch of n posted entries, each completed at its take, runs whole in one scan, whatever the read in progress; `after` says
what the takes leave of the supply. -/
theorem scan_batch {st : Byte} {why : ResultCode} {data : List Byte} {s : State} {n : Nat} (after : Nat → Supply → Prop)
    (hg : s.governor.state ≠ .init) (ha : s.directives.active = none) (hn : n ≤ 32)
    (hdata : (data ++ zeros 8).take 8 = zeros 8)
    (hposted : ∀ i, i < n → entryState s.xm (s.directives.cursor + BitVec.ofNat 5 i) = 1)
    (hend : n < 32 → entryState s.xm (s.directives.cursor + BitVec.ofNat 5 n) ≠ 1) (hstart : after 0 s.supply)
    (htake : ∀ i u, i < n → BatchState st why.code s i u → after i u.supply → ∃ p, after (i + 1) p ∧
      ∀ w, w = u ∨ w = endReading u → takeAtCursor w =
        completeEntry st why data (entryNotify s.xm (s.directives.cursor + BitVec.ofNat 5 i)) { w with supply := p }) :
    scan (endReading s) = endReading (scan s) ∧ BatchState st why.code s n (scan s) ∧ after n (scan s).supply := by
  have hrun : ∀ i, i ≤ n → ∃ u, scanFrom 32 s = scanFrom (32 - i) u ∧
      scanFrom 32 (endReading s) = scanFrom (32 - i) (endReading u) ∧
      BatchState st why.code s i u ∧ after i u.supply := by
    intro i
    induction i with
    | zero => exact fun _ => ⟨s, rfl, rfl, .start st why.code ha, hstart⟩
    | succ i ih =>
      intro hi
      obtain ⟨u, hs, hs', hb, hafter⟩ := ih (by omega)
      obtain ⟨p, hp, htaken⟩ := htake i u (by omega) hb hafter
      have hactive : u.directives.active = none := by rw [hb.directives]
      have hstate : entryState u.xm u.directives.cursor = 1 := by
        rw [hb.directives]
        exact (hb.kept (by omega) (k := 0) (by omega)).trans (hposted i (by omega))
      have hfuel : 32 - i = (32 - (i + 1)) + 1 := by omega
      rw [hfuel] at hs hs'
      refine ⟨_, hs.trans ((scanFrom_posted hactive hstate _).trans (congrArg _ (htaken u (.inl rfl)))),
        hs'.trans ((scanFrom_posted (s := endReading u) hactive hstate _).trans
          (congrArg _ ((htaken (endReading u) (.inr rfl)).trans (completeEntry_endReading _ _ _ _ { u with supply := p })))),
        hb.step (v := { u with supply := p }) (by omega) hdata rfl, ?_⟩
      rw [completeEntry_frame]
      exact hp
  obtain ⟨u, hs, hs', hb, hafter⟩ := hrun n le_rfl
  have hstop (w : State) (hd : w.directives = u.directives) (hx : w.xm = u.xm) : scanFrom (32 - n) w = w := by
    obtain hlt | rfl := Nat.lt_or_eq_of_le hn
    · refine scanFrom_stops (.inr ?_) _
      rw [hd, hx, hb.directives, entryState]
      rw [show memRead u.xm (entryAddr (s.directives.cursor + BitVec.ofNat 5 n)) = _ from hb.kept hlt (k := 0) (by omega)]
      exact hend hlt
    · rfl
  have hscan : scan s = u := (if_neg hg).trans (hs.trans (hstop u rfl rfl))
  have hscan' : scan (endReading s) = endReading u := 
    (show scan (endReading s) = scanFrom 32 (endReading s) from if_neg hg).trans (hs'.trans (hstop _ rfl rfl))
  rw [hscan]
  exact ⟨hscan', hb, hafter⟩

/-! ### The prompts (R152) -/

theorem exec_nudge {s : State} (h : resetHeld s = false) (ha : s.directives.active = none) :
    exec .nudge s = .next (scan (endReading s)) := by
  show Host.Outcome.next (unlessHeld (fun s => nudgeWrite (endReading s)) s) = _
  rw [unlessHeld_of_free h, nudgeWrite, if_neg]
  show ¬s.directives.active.isSome = true
  rw [ha]
  exact nofun

theorem directiveStep_scan {s : State} (ha : s.directives.active = none) (m : Measurement) : directiveStep m s = scan s := by
  rw [directiveStep, ha]

theorem exec_directiveStepEvent_scan {s : State} (h : resetHeld s = false) (ha : s.directives.active = none) (m : Measurement) :
    exec (.directiveStepEvent m) s = .next (scan s) := by
  rw [exec_directiveStepEvent h, directiveStep_scan ha]

theorem scan_idle {s : State} (h : s.governor.state = .init ∨ s.directives.active ≠ none ∨
    entryState s.xm s.directives.cursor ≠ 1) : scan s = s := by
  rcases h with h | h | h
  · exact if_pos h
  · exact scan_of_stops (.inl (Option.isSome_iff_ne_none.2 h))
  · exact scan_of_stops (.inr h)

/-- A prompt that finds nothing to take ends the read in progress and nothing else. -/
theorem exec_nudge_idle {s : State} (hf : resetHeld s = false) (h : s.governor.state = .init ∨ s.directives.active ≠ none ∨
    entryState s.xm s.directives.cursor ≠ 1) : exec .nudge s = .next { s with port := { s.port with reading := none } } := by
  show Host.Outcome.next (unlessHeld (fun s => nudgeWrite (endReading s)) s) = _
  rw [unlessHeld_of_free hf, nudgeWrite, scan_idle (s := endReading s) h, ite_self]
  rfl

/-! ### Unknown kinds and supplies -/

/-- A batch of unknown kinds (R153). -/
theorem scan_unknown {s : State} {n : Nat} (hg : s.governor.state ≠ .init) (ha : s.directives.active = none) (hn : n ≤ 32)
    (hposted : ∀ i, i < n → entryState s.xm (s.directives.cursor + BitVec.ofNat 5 i) = 1 ∧
      ((entryKind s.xm (s.directives.cursor + BitVec.ofNat 5 i)).toNat = 0 ∨
        14 < (entryKind s.xm (s.directives.cursor + BitVec.ofNat 5 i)).toNat))
    (hend : n < 32 → entryState s.xm (s.directives.cursor + BitVec.ofNat 5 n) ≠ 1) :
    scan (endReading s) = endReading (scan s) ∧ BatchState 4 1 s n (scan s) ∧ (scan s).supply = s.supply := by
  refine scan_batch (why := .unknownKind) (data := [0]) (fun _ p => p = s.supply) hg ha hn rfl (fun i hi => (hposted i hi).1)
    hend rfl fun i u hi hb hp => ⟨s.supply, rfl, fun w hw => ?_⟩
  have hx : w.xm = u.xm := by rcases hw with rfl | rfl <;> rfl
  have hd : w.directives = u.directives := by rcases hw with rfl | rfl <;> rfl
  have hs : w.supply = s.supply := by rcases hw with rfl | rfl <;> exact hp
  have hkind : entryKind w.xm w.directives.cursor = entryKind s.xm (s.directives.cursor + BitVec.ofNat 5 i) := by
    rw [hx, hd, hb.directives]
    exact hb.kept (by omega) (by omega)
  have hnotify : entryNotify w.xm w.directives.cursor = entryNotify s.xm (s.directives.cursor + BitVec.ofNat 5 i) := by
    rw [hx, hd, hb.directives, entryNotify, entryNotify, hb.kept (by omega) (by omega)]
  rw [takeAtCursor, hkind, hnotify, takeDirective, if_pos (hposted i hi).2, ← hs]
  rfl

/-- The supply that SUPPLY_SETUP of a budget leaves (R48, R49). -/
def suppliedBy (s : State) (budget : Nat) : Supply :=
  ⟨budget, effectiveBudget { s with supply := ⟨budget, s.supply.lastBudget⟩ }⟩

/-- The budget that entry i of a batch asks for. -/
def batchBudget (s : State) (i : Nat) : Nat :=
  (memRead16 s.xm (entryAddr (s.directives.cursor + BitVec.ofNat 5 i) + 4)).toNat

theorem argNat_entryArgs (m : Memory) (e : BitVec 5) : argNat (entryArgs m e) 4 = (memRead16 m (entryAddr e + 4)).toNat := by
  simp [argNat, arg16, entryArgs, memBytes, memRead16]

theorem takeSupplySetup_of_budget {a : List Byte} {s w : State} {b : Nat} (h : argNat a 4 = b) (hb : b ≤ 8000)
    (hsup : w.supervisor = s.supervisor) : takeSupplySetup a w = .done { w with supply := suppliedBy s b } [] := by
  rw [takeSupplySetup, h, if_neg (not_lt.2 hb)]
  simp only [formBudget, suppliedBy, effectiveBudget, underBudgetEntry, condState, hsup]
  rfl

/-- A batch of SUPPLY_SETUPs in range (R48). -/
theorem scan_supplies {s : State} {n : Nat} (hg : s.governor.state ≠ .init) (ha : s.directives.active = none) (hn : n ≤ 32)
    (hposted : ∀ i, i < n → entryState s.xm (s.directives.cursor + BitVec.ofNat 5 i) = 1 ∧
      entryKind s.xm (s.directives.cursor + BitVec.ofNat 5 i) = 0x04 ∧ batchBudget s i ≤ 8000)
    (hend : n < 32 → entryState s.xm (s.directives.cursor + BitVec.ofNat 5 n) ≠ 1) :
    scan (endReading s) = endReading (scan s) ∧ BatchState 3 0 s n (scan s) ∧
      ∀ k, n = k + 1 → (scan s).supply = suppliedBy s (batchBudget s k) := by
  refine scan_batch (why := .ok) (data := []) (fun j p => ∀ k, j = k + 1 → p = suppliedBy s (batchBudget s k))
    hg ha hn rfl (fun i hi => (hposted i hi).1) hend (fun k hk => by omega)
    fun i u hi hb _ => ⟨suppliedBy s (batchBudget s i), fun k hk => by rw [Nat.succ.inj hk], fun w hw => ?_⟩
  obtain ⟨-, hk4, hbudget⟩ := hposted i hi
  have hx : w.xm = u.xm := by rcases hw with rfl | rfl <;> rfl
  have hd : w.directives = u.directives := by rcases hw with rfl | rfl <;> rfl
  have hgov : w.governor = s.governor := by
    have hu : u.governor = s.governor := (congrArg State.governor hb.frame).trans rfl
    rcases hw with rfl | rfl <;> exact hu
  have hsup : w.supervisor = s.supervisor := by
    have hu : u.supervisor = s.supervisor := (congrArg State.supervisor hb.frame).trans rfl
    rcases hw with rfl | rfl <;> exact hu
  have hkind : entryKind w.xm w.directives.cursor = 0x04 := by
    rw [hx, hd, hb.directives, ← hk4]
    exact hb.kept (by omega) (by omega)
  have hnotify : entryNotify w.xm w.directives.cursor = entryNotify s.xm (s.directives.cursor + BitVec.ofNat 5 i) := by
    rw [hx, hd, hb.directives, entryNotify, entryNotify, hb.kept (by omega) (by omega)]
  have harg : argNat (entryArgs w.xm w.directives.cursor) 4 = batchBudget s i := by
    rw [argNat_entryArgs, batchBudget, hx, hd, hb.directives, memRead16, memRead16, Nat.add_assoc, hb.kept (by omega) (by omega),
      hb.kept (by omega) (by omega)]
  rw [takeAtCursor, hkind, hnotify, takeDirective_accepted (by decide) (accepted_anywhere (by rw [hgov]; exact hg)
    (by decide) (by decide))]
  show settle _ (takeSupplySetup _ w) = _
  rw [takeSupplySetup_of_budget harg hbudget hsup]
  rfl

/-! ### The obligation -/

/-- What the two prompts come to over a batch. -/
theorem batch_prompts {st code : Byte} {s : State} {n : Nat} (m : Measurement) (hf : resetHeld s = false)
    (ha : s.directives.active = none) (hread : scan (endReading s) = endReading (scan s)) (h : BatchState st code s n (scan s)) :
    exec (.directiveStepEvent m) s = .next (scan s) ∧
      exec .nudge s = .next { scan s with port := { (scan s).port with reading := none } } ∧
      MemoryKept (fun a => a = 6 ∨ RunBytes s.directives.cursor n a) s (scan s) :=
  ⟨exec_directiveStepEvent_scan hf ha m, (exec_nudge hf ha).trans (congrArg _ hread), h.lands.kept⟩

/-- Settles O54: the prompts that find nothing, the two batches, a refusal. -/
theorem promptsScanTheList : Obligations.PromptsScanTheList := by
  refine ⟨fun s hf h => exec_nudge_idle hf h, fun s m ha h => ?_, fun s m n hf hg ha h1 hn hposted hend => ?_,
    fun s m n hf hg ha h1 hn hposted hend => ?_, fun s m hf ha hp hend hrefused => ?_⟩
  · show Host.Outcome.next (unlessHeld (directiveStep m) s) = _
    rw [unlessHeld, directiveStep_scan ha, scan_idle (h.imp_right .inr), ite_self]
  · obtain ⟨hread, hb, hsupply⟩ := scan_unknown hg ha hn hposted hend
    obtain ⟨he, he', hm⟩ := batch_prompts m hf ha hread hb
    generalize scan s = t at *
    refine ⟨t, he, he', hb.reads, hb.directives, hb.mirror h1, hb.cause, hb.causes, hm, ?_⟩
    have := hb.frame
    rw [hsupply] at this
    exact this
  · obtain ⟨hread, hb, hsupply⟩ := scan_supplies hg ha hn hposted hend
    obtain ⟨he, he', hm⟩ := batch_prompts m hf ha hread hb
    generalize scan s = t at *
    refine ⟨t, he, he', hb.reads, fun budget hbudget => ?_, hb.directives, hb.mirror h1, hb.cause, hb.causes, hm, hb.frame⟩
    rw [hsupply (n - 1) (by omega), hbudget]
    rfl
  · have hg : s.governor.state ≠ .init := by
      rintro hi
      rw [hi] at hrefused
      simp at hrefused
    have htake : takeAtCursor s = completeEntry 4 .refusedState [0] (entryNotify s.xm s.directives.cursor) s := by
      rw [takeAtCursor, takeDirective_refused]
      · rfl
      · rcases hrefused with ⟨hk, -⟩ | ⟨hk, -⟩ <;> rw [hk] <;> decide
      · rcases hrefused with ⟨hk, hs | hs⟩ | ⟨hk, hs | hs⟩ <;> rw [hk, hs] <;> rfl
    have hscan : scan s = completeEntry 4 .refusedState [0] (entryNotify s.xm s.directives.cursor) s := by
      rw [scan, if_neg hg, scanFrom_posted ha hp, htake]
      exact scanFrom_completeEntry hend 31
    obtain ⟨t, he, hr, hc, hm, hfr⟩ := exec_directiveStepEvent_completes (m := m) hf ((directiveStep_scan ha m).trans hscan)
      rfl rfl rfl
    exact ⟨t, he, hc, hr, hm, hfr⟩

end Sys2Proof.Machine
end

section
/-! The port's transaction in progress on the lines (R179): no event but a reset ends or changes what it has received. -/

namespace Sys2Proof.Machine

/-! ### What the events leave of the port -/

theorem setCauseIf_incoming (b : Bool) (k : Cause) (s : State) : (setCauseIf b k s).port.incoming = s.port.incoming := by
  rw [setCauseIf_ncause]

theorem activatePrepared_incoming (p : Prepared) (s : State) : (activatePrepared p s).port.incoming = s.port.incoming :=
  setCauseIf_incoming _ .miss (chargeAll (bringIntoForce p s))

theorem activateOrphan_incoming (s : State) : (activateOrphan s).port.incoming = s.port.incoming :=
  setCauseIf_incoming _ .miss (chargeAll s)

theorem enterStoppedIfQuiet_incoming (s : State) : (enterStoppedIfQuiet s).port.incoming = s.port.incoming := by
  unfold enterStoppedIfQuiet
  split <;> rfl

theorem requestStop_incoming (why : StopReason) (stamp : Stamp) (s : State) :
    (requestStop why stamp s).port.incoming = s.port.incoming := by
  unfold requestStop
  split
  · rw [enterStoppedIfQuiet_incoming, enterStopping_port]
  · rfl

theorem transferCompleted_incoming (ack : Bool) (s : State) : (transferCompleted ack s).port.incoming = s.port.incoming := by
  unfold transferCompleted
  split
  · rfl
  · dsimp only
    split
    · rw [enterStoppedIfQuiet_incoming]
      rfl
    · rfl

theorem countScan_incoming (s : State) : (countScan s).port.incoming = s.port.incoming := by
  unfold countScan
  split
  · dsimp only
    split
    · unfold leaveInit
      dsimp only
      split <;> rfl
    · rfl
  · rfl

theorem scanCompleted_incoming (raw : Vector (BitVec 12) 11) (s : State) :
    (scanCompleted raw s).port.incoming = s.port.incoming := by
  unfold scanCompleted
  split
  · exact countScan_incoming _
  · split
    · exact countScan_incoming _
    · rfl
  · rfl
  · rfl

theorem quietAfterBurst_incoming (s : State) : (quietAfterBurst s).port.incoming = s.port.incoming := by
  unfold quietAfterBurst
  split
  · rw [enterStoppedIfQuiet_incoming]
    rfl
  · rfl

theorem writeRun1_port (s : State) : (writeRun1 s).port = s.port := by
  rw [writeRun1_frame]

theorem writeRun0_port (s : State) : (writeRun0 s).port = s.port := by
  unfold writeRun0
  split
  · rfl
  · rfl
  · exact leaveSlots_port _ _
  · rfl
  · rfl

theorem writeNcause_port (v : Half) (s : State) :
    (writeNcause v s).port = { s.port with ncause := (writeNcause v s).port.ncause } := by
  simp only [writeNcause, clearStop]
  split
  · split <;> rfl
  · rfl

/-! ### Every event -/

/-- No event but a reset touches what the transaction in progress has received. -/
theorem keptByEvents_incoming {ok : EventSort → Prop} (hp : ¬ok .powerOn) (hw : ¬ok .warm) (x : Option (List Byte)) :
    KeptByEvents ok fun s => s.port.incoming = x where
  powerOn h := absurd h hp
  warm h := absurd h hw
  pins _ _ h := h
  prepare _ _ _ h _ := h
  activatePrepared _ p s h _ _ := (activatePrepared_incoming p s).trans h
  activateOrphan _ s h _ _ := (activateOrphan_incoming s).trans h
  transfer ack s h := (transferCompleted_incoming ack s).trans h
  estimator _ _ h := h
  watch _ _ h _ := h
  stop _ why stamp s h := (requestStop_incoming why stamp s).trans h
  table _ s h := by rw [evaluateTable_port]; exact h
  scanDone _ raw s h := (scanCompleted_incoming raw s).trans h
  setupSlots _ _ _ _ _ _ h _ _ _ _ := h
  setupChain _ _ _ _ h _ _ _ _ _ _ := h
  setupCondition _ _ _ _ _ _ _ _ h _ := by rw [replaceEntry_port]; exact h
  setupSupply _ _ _ h _ := h
  setupChannel _ _ _ _ h _ _ _ _ _ := h
  loadTaken _ _ _ h := h
  drop _ _ _ h := h
  measuring _ _ _ h _ _ := h
  captureOn _ _ _ _ _ h _ _ _ _ _ := h
  captureOff _ _ h := h
  release _ c s h _ _ := by
    show (replaceEntry _ _ _).port.incoming = x
    rw [replaceEntry_port]
    exact h
  discard _ _ _ h _ := h
  complete _ _ _ _ _ s h _ := by rw [completeEntry_port]; exact h
  active _ _ _ h _ _ := h
  timer _ _ _ _ h _ _ := h
  measure _ _ _ _ h _ := h
  loadDone _ s h _ := by rw [finishLoad_frame]; exact h
  calibrate _ _ s h _ := by rw [applyCalibration_frame]; exact h
  settle _ _ h _ := h
  captureStep _ s h := by rw [captureStep_frame]; exact h
  burst b s h _ := by rw [quietAfterBurst_incoming, landBurst_port]; exact h
  stoppedIfQuiet s h := (enterStoppedIfQuiet_incoming s).trans h
  host _ _ _ _ h := h
  reading _ _ _ h := h
  ncause v s h := by rw [writeNcause_port]; exact h
  nmask _ _ h := h
  run1 s h := by rw [writeRun1_port]; exact h
  run0 s h := by rw [writeRun0_port]; exact h
  post _ kind notify a s h := by rw [postAtCursor_frame]; exact h
  board _ h := h

/-- R179: no command but a reset ends the transaction in progress; a power-on reset and a warm reset do. -/
theorem incoming_of_command {i : Instr} {s t : State} (he : exec i s = .next t) :
    (raises i .powerOn = false → raises i .warm = false → t.port.incoming = s.port.incoming) ∧
      (i = .powerOnReset ∨ (resetHeld s = false ∧ (i = .resetN ∨ i = .warmReset)) → t.port.incoming = none) := by
  refine ⟨fun hp hw => ?_, ?_⟩
  · have k : KeptByEvents (fun x => raises i x = true) fun u => u.port.incoming = s.port.incoming :=
      keptByEvents_incoming (by rw [hp]; exact nofun) (by rw [hw]; exact nofun) _
    exact k.command (fun x hx => hx) rfl he
  · rintro (rfl | ⟨hf, rfl | rfl⟩)
    · obtain rfl := Host.Outcome.next.inj he
      rfl
    · obtain rfl := Host.Outcome.next.inj he
      show (unlessHeld warmReset s).port.incoming = none
      rw [unlessHeld_of_free hf, warmReset_frame]
      rfl
    · obtain rfl := Host.Outcome.next.inj he
      show (unlessHeld (fun u => writeGctl 2 (endReading u)) s).port.incoming = none
      rw [unlessHeld_of_free hf]
      show (warmReset (endReading s)).port.incoming = none
      rw [warmReset_frame]
      rfl

end Sys2Proof.Machine
end

section
/-! Write transactions (R178 to R180, R184): what lands where, the register writes in their order, and the lines that carry
them. -/

namespace Sys2Proof.Machine

/-! ### Where a host byte lands (R178, R150) -/

theorem hostByteLands_iff (m : Memory) (a : Nat) (b : Byte) : hostByteLands m a b = true ↔
    a = 0x003C ∨ a = 0x003D ∨ InRun 0x0200 0x200 a ∨ InRun 0x1000 0x800 a ∨
      (InRun 0x0800 0x400 a ∧ memRead m (a - a % 32) ≠ 2 ∧
        ((a % 32 = 0 ∧ (b.toNat < 2 ∨ 5 < b.toNat)) ∨ (a % 32 ≠ 0 ∧ a % 32 ≠ 3 ∧ a % 32 < 24))) := by
  simp only [InRun, hostByteLands]
  by_cases hrd : a = 0x3C ∨ a = 0x3D
  · rw [if_pos hrd]
    exact ⟨fun _ => hrd.imp_right .inl, fun _ => rfl⟩
  · rw [if_neg hrd]
    by_cases hcal : 0x200 ≤ a ∧ a < 0x400
    · rw [if_pos hcal]
      exact ⟨fun _ => .inr (.inr (.inl (by omega))), fun _ => rfl⟩
    · rw [if_neg hcal]
      by_cases hlist : 0x800 ≤ a ∧ a < 0xC00
      · rw [if_pos hlist, directiveByteLands]
        by_cases hactive : memRead m (a - a % 32) = 2
        · rw [if_pos hactive]
          refine ⟨nofun, fun h => ?_⟩
          rcases h with h | h | h | h | ⟨-, hne, -⟩
          · omega
          · omega
          · omega
          · omega
          · exact absurd hactive hne
        · rw [if_neg hactive]
          by_cases h0 : a % 32 = 0
          · rw [if_pos h0, Bool.or_eq_true, decide_eq_true_eq, decide_eq_true_eq]
            exact ⟨fun h => .inr (.inr (.inr (.inr ⟨by omega, hactive, .inl ⟨h0, h⟩⟩))), fun h => by omega⟩
          · rw [if_neg h0, Bool.and_eq_true, decide_eq_true_eq, decide_eq_true_eq]
            exact ⟨fun h => .inr (.inr (.inr (.inr ⟨by omega, hactive, .inr ⟨h0, h⟩⟩))), fun h => by omega⟩
      · rw [if_neg hlist, Bool.and_eq_true, decide_eq_true_eq, decide_eq_true_eq]
        omega

/-- A written byte lands or leaves its address alone. -/
theorem memRead_hostWrite_written {m : Memory} {start : Half} {d : List Byte} (hd : d.length ≤ 256) {a : Half} {b : Byte}
    (h : byteAt start d a = some b) :
    memRead (hostWrite m start d) a.toNat = if hostByteLands m a.toNat b = true then b else memRead m a.toNat := by
  rw [byteAt] at h
  have ha : BitVec.ofNat 16 a.toNat = a := (BitVec.ofNat_toNat 16 a).trans (BitVec.setWidth_eq a)
  rw [memRead_hostWrite _ _ _ (by omega), ha, h]
  simp only [a.isLt, true_and]

/-- An address without a written byte keeps what it holds. -/
theorem memRead_hostWrite_unwritten {m : Memory} {start : Half} {d : List Byte} (hd : d.length ≤ 256) {x : Nat}
    (h : ¬∃ a : Half, a.toNat = x ∧ byteAt start d a ≠ none) : memRead (hostWrite m start d) x = memRead m x := by
  rw [memRead_hostWrite _ _ _ (by omega)]
  cases hb : d[(BitVec.ofNat 16 x - start).toNat]? with
  | none => rfl
  | some b =>
    refine if_neg fun ⟨hx, _⟩ => h ⟨BitVec.ofNat 16 x, by rw [BitVec.toNat_ofNat]; omega, ?_⟩
    rw [byteAt, hb]
    exact nofun

/-! ### The register words (R184) -/

theorem halfAt_eq_none {start : Half} {d : List Byte} {a : Half} :
    halfAt start d a = none ↔ byteAt start d a = none ∨ byteAt start d (a + 1) = none := by
  unfold halfAt
  cases byteAt start d a <;> cases byteAt start d (a + 1) <;> simp

theorem halfAt_of_word {start : Half} {d : List Byte} {a v : Half} (h0 : byteAt start d a = some (v.extractLsb' 0 8))
    (h1 : byteAt start d (a + 1) = some (v.extractLsb' 8 8)) : halfAt start d a = some v := by
  unfold halfAt
  rw [h0, h1]
  exact congrArg some (le16_join v)

theorem byte_split (lo hi : Byte) :
    (hi ++ lo : Half).extractLsb' 0 8 = lo ∧ (hi ++ lo : Half).extractLsb' 8 8 = hi := by
  exact ⟨BitVec.extractLsb'_append_eq_right, BitVec.extractLsb'_append_eq_left⟩

theorem word_of_halfAt {start : Half} {d : List Byte} {a v : Half} (h : halfAt start d a = some v) :
    byteAt start d a = some (v.extractLsb' 0 8) ∧ byteAt start d (a + 1) = some (v.extractLsb' 8 8) := by
  unfold halfAt at h
  split at h
  · next lo hi h0 h1 =>
    obtain rfl := Option.some.inj h
    rw [h0, h1, (byte_split lo hi).1, (byte_split lo hi).2]
    exact ⟨rfl, rfl⟩
  · cases h

/-! ### The part between two register writes -/

/-- No reset is held and no read in progress, as at every register write of a transaction. -/
def Acting (s : State) : Prop :=
  resetHeld s = false ∧ s.port.reading = none

theorem endReading_of_acting {s : State} (h : Acting s) : endReading s = s := by
  obtain ⟨-, hr⟩ := h
  show { s with port := { s.port with reading := none } } = s
  rw [← hr]

theorem Acting.of_eq {s t : State} (h : Acting s) (hp : t.pins = s.pins) (hr : t.port.reading = s.port.reading) : Acting t := by
  obtain ⟨hf, hn⟩ := h
  refine ⟨?_, hr.trans hn⟩
  rw [resetHeld, hp]
  exact hf

theorem writeNcause_acting {s : State} (h : Acting s) (v : Half) : Acting (writeNcause v s) :=
  h.of_eq (by rw [writeNcause_frame]) (by rw [writeNcause_port])

/-- A write to GCTL without WARM_RESET is the write of RUN (R170). -/
theorem writeGctl_without_warm {v : Half} (h : v.getLsbD 1 = false) (s : State) :
    writeGctl v s = if v.getLsbD 0 then writeRun1 s else writeRun0 s := by
  rw [writeGctl, if_neg (by rw [h]; exact nofun)]

theorem writeRun_acting {s : State} (h : Acting s) (b : Bool) : Acting (if b then writeRun1 s else writeRun0 s) := by
  cases b with
  | true =>
    have hp : (writeRun1 s).pins = s.pins := by rw [writeRun1_frame]
    exact h.of_eq hp (congrArg MemoryPort.reading (writeRun1_port s))
  | false =>
    have hp : (writeRun0 s).pins = s.pins := by rw [writeRun0_frame]
    exact h.of_eq hp (congrArg MemoryPort.reading (writeRun0_port s))

theorem exec_run_of_acting {s : State} (h : Acting s) (b : Bool) :
    exec (if b then .runWritten1 else .runWritten0) s = .next (if b then writeRun1 s else writeRun0 s) := by
  have he := endReading_of_acting h
  cases b with
  | true =>
    show exec .runWritten1 s = _
    rw [exec_runWritten1 h.1, he]
    rfl
  | false =>
    show exec .runWritten0 s = _
    rw [exec_runWritten0 h.1, he]
    rfl

theorem exec_ncauseClear_of_acting {s : State} (h : Acting s) (v : Half) : exec (.ncauseClear v) s = .next (writeNcause v s) := by
  rw [exec_ncauseClear h.1, endReading_of_acting h]

theorem exec_nmask_of_acting {s : State} (h : Acting s) (v : Half) : exec (.nmask v) s = .next (writeNmask v s) := by
  show Host.Outcome.next (unlessHeld (fun u => writeNmask v (endReading u)) s) = _
  rw [unlessHeld_of_free h.1, endReading_of_acting h]

theorem exec_nudge_of_acting {s : State} (h : Acting s) : exec .nudge s = .next (nudgeWrite s) := by
  show Host.Outcome.next (unlessHeld (fun s => nudgeWrite (endReading s)) s) = _
  rw [unlessHeld_of_free h.1, endReading_of_acting h]

/-! ### The registers in ascending order (R180) -/

/-- The register writes of a transaction, one after another: after GCTL, NCAUSE, NMASK and NUDGE, each as its own command. -/
theorem writeUpperRegisters_steps {start : Half} {d : List Byte} {v : State} (h : Acting v) :
    ∃ w x, (halfAt start d 0x4006 = none → w = v) ∧ (∀ g, halfAt start d 0x4006 = some g → exec (.ncauseClear g) v = .next w) ∧
      (halfAt start d 0x4008 = none → x = w) ∧ (∀ g, halfAt start d 0x4008 = some g → exec (.nmask g) w = .next x) ∧
      (byteAt start d 0x400A = none → byteAt start d 0x400B = none → writeUpperRegisters start d v = x) ∧
      (byteAt start d 0x400A ≠ none ∨ byteAt start d 0x400B ≠ none →
        exec .nudge x = .next (writeUpperRegisters start d v)) := by
  have hw : Acting (writeHalf writeNcause (halfAt start d 0x4006) v) := by
    cases halfAt start d 0x4006 with
    | none => exact h
    | some g => exact writeNcause_acting h g
  have hx : Acting (writeHalf writeNmask (halfAt start d 0x4008) (writeHalf writeNcause (halfAt start d 0x4006) v)) := by
    cases halfAt start d 0x4008 with
    | none => exact hw
    | some g => exact hw.of_eq rfl rfl
  refine ⟨writeHalf writeNcause (halfAt start d 0x4006) v,
    writeHalf writeNmask (halfAt start d 0x4008) (writeHalf writeNcause (halfAt start d 0x4006) v),
    fun hn => ?_, fun g hg => ?_, fun hn => ?_, fun g hg => ?_, fun ha hb => ?_, fun hab => ?_⟩
  · rw [hn]
    rfl
  · rw [hg]
    exact exec_ncauseClear_of_acting h g
  · rw [hn]
    rfl
  · rw [hg]
    exact exec_nmask_of_acting hw g
  · rw [writeUpperRegisters, ha, hb]
    rfl
  · rw [exec_nudge_of_acting hx, writeUpperRegisters, if_pos]
    simpa [Option.isSome_iff_ne_none] using hab

/-! ### A whole write transaction -/

/-- Exchange memory after a transaction's bytes have landed, the read in progress ended. -/
def writtenState (start : Half) (d : List Byte) (s : State) : State :=
  { endReading s with xm := hostWrite s.xm start d }

theorem exec_spiWrite_address {s : State} (h : resetHeld s = false) (hi lo : Byte) (data : List Byte) :
    exec (.spiWrite (hi :: lo :: data)) s = .next (writeRegisters (hi ++ lo) (data.take 256)
      (writtenState (hi ++ lo) (data.take 256) s)) := by
  show Host.Outcome.next (unlessHeld (writeTransaction (hi :: lo :: data)) s) = _
  rw [unlessHeld_of_free h]
  rfl

/-- The register writes of a transaction, GCTL first: a warm reset ends them. -/
theorem writeRegisters_steps {start : Half} {d : List Byte} {u : State} (h : Acting u) :
    ∃ v w x, (halfAt start d 0x4002 = none → v = u) ∧
      (∀ g, halfAt start d 0x4002 = some g → g.getLsbD 1 = true → exec .warmReset u = .next (writeRegisters start d u)) ∧
      (∀ g, halfAt start d 0x4002 = some g → g.getLsbD 1 = false →
        exec (if g.getLsbD 0 then .runWritten1 else .runWritten0) u = .next v) ∧
      ((∀ g, halfAt start d 0x4002 = some g → g.getLsbD 1 = false) →
        (halfAt start d 0x4006 = none → w = v) ∧ (∀ g, halfAt start d 0x4006 = some g → exec (.ncauseClear g) v = .next w) ∧
        (halfAt start d 0x4008 = none → x = w) ∧ (∀ g, halfAt start d 0x4008 = some g → exec (.nmask g) w = .next x) ∧
        (byteAt start d 0x400A = none → byteAt start d 0x400B = none → writeRegisters start d u = x) ∧
        (byteAt start d 0x400A ≠ none ∨ byteAt start d 0x400B ≠ none →
          exec .nudge x = .next (writeRegisters start d u))) := by
  cases hg : halfAt start d 0x4002 with
  | none =>
    have hr : writeRegisters start d u = writeUpperRegisters start d u := by rw [writeRegisters, hg]
    rw [hr]
    obtain ⟨w, x, hsteps⟩ := writeUpperRegisters_steps (start := start) (d := d) h
    exact ⟨u, w, x, fun _ => rfl, nofun, nofun, fun _ => hsteps⟩
  | some g =>
    cases hwarm : g.getLsbD 1 with
    | true =>
      have hr : writeRegisters start d u = warmReset u := by
        simp only [writeRegisters, hg]
        rw [if_pos hwarm, writeGctl, if_pos hwarm]
      rw [hr]
      refine ⟨u, u, u, nofun, fun _ _ _ => exec_warmReset h.1, fun g' hg' h0 => ?_, fun hall => ?_⟩
      · cases hg'
        rw [hwarm] at h0
        cases h0
      · have := hall g rfl
        rw [hwarm] at this
        cases this
    | false =>
      have hr : writeRegisters start d u = writeUpperRegisters start d (if g.getLsbD 0 then writeRun1 u else writeRun0 u) := by
        simp only [writeRegisters, hg]
        rw [if_neg (by rw [hwarm]; exact nofun), writeGctl_without_warm hwarm]
      rw [hr]
      obtain ⟨w, x, hsteps⟩ := writeUpperRegisters_steps (start := start) (d := d) (writeRun_acting h (g.getLsbD 0))
      refine ⟨_, w, x, nofun, fun g' hg' h1 => ?_, fun g' hg' _ => ?_, fun _ => hsteps⟩
      · cases hg'
        rw [hwarm] at h1
        cases h1
      · cases hg'
        exact exec_run_of_acting h _

end Sys2Proof.Machine
end

section
/-! The rows that stand for a write transaction (log entries 2, 16), and the lines that queue one (R179, log entry 30). -/

namespace Sys2Proof.Machine

/-! ### A register's two bytes (log entry 16) -/

/-- A transaction of a register's two bytes lands nothing in exchange memory. -/
theorem landWrite_register {start : Half} (h : 0x4000 ≤ start.toNat) (h' : start.toNat < 0xFFFF) (b0 b1 : Byte) (s : State) :
    landWrite start [b0, b1] s = writeRegisters start [b0, b1] (endReading s) := by
  have hoff (m : Memory) (a : Nat) (ha : 0x4000 ≤ a) (b : Byte) : hostByte m a b = m := by
    refine if_neg fun hl => ?_
    have := hostByteLands_writable hl
    simp only [hostWritable, InRun] at this
    omega
  have h1 : (start + 1).toNat = start.toNat + 1 := by
    rw [BitVec.toNat_add, show (1 : Half).toNat = 1 from rfl]
    omega
  have hx : hostWrite s.xm start [b0, b1] = s.xm := by
    rw [hostWrite, hostWrite, hostWrite, hoff _ _ h, hoff _ _ (by omega)]
  show writeRegisters start [b0, b1] { endReading s with xm := hostWrite s.xm start [b0, b1] } = _
  rw [hx]
  rfl

/-- The row of a register's write and the transaction of its two bytes are one, by what they do to the part. -/
theorem exec_spiWrite_register {hi lo : Byte} (start : Half) {v : Half} {row : Instr} {write : State → State}
    (hs : hi ++ lo = start) (h : 0x4000 ≤ start.toNat) (h' : start.toNat < 0xFFFF)
    (hrow : ∀ s, exec row s = .next (registerTransaction write s))
    (hwrite : ∀ s, writeRegisters start [v.extractLsb' 0 8, v.extractLsb' 8 8] s = write s) (s : State) :
    exec (.spiWrite [hi, lo, v.extractLsb' 0 8, v.extractLsb' 8 8]) s = exec row s := by
  have hf : writeTransaction [hi, lo, v.extractLsb' 0 8, v.extractLsb' 8 8] = fun u => write (endReading u) := by
    funext u
    rw [writeTransaction, hs, landWrite_register h h', hwrite]
  rw [hrow]
  show Host.Outcome.next (unlessHeld (writeTransaction _) s) = _
  rw [hf]
  rfl

/-- Above GCTL nothing is written where no register's bytes are. -/
theorem writeUpperRegisters_none {start : Half} {d : List Byte} (h6 : byteAt start d 0x4006 = none)
    (h8 : byteAt start d 0x4008 = none) (hA : byteAt start d 0x400A = none) (hB : byteAt start d 0x400B = none) (s : State) :
    writeUpperRegisters start d s = s := by
  rw [writeUpperRegisters, halfAt_eq_none.2 (.inl h6), halfAt_eq_none.2 (.inl h8), hA, hB]
  rfl

/-- The two bytes of a register's value, least significant first. -/
def registerBytes (v : Half) : List Byte :=
  [v.extractLsb' 0 8, v.extractLsb' 8 8]

theorem writeRegisters_partid (v : Half) (s : State) : writeRegisters 0x4000 (registerBytes v) s = s := rfl

theorem writeRegisters_gstate (v : Half) (s : State) : writeRegisters 0x4004 (registerBytes v) s = s := rfl

theorem writeRegisters_nudge (v : Half) (s : State) : writeRegisters 0x400A (registerBytes v) s = nudgeWrite s := rfl

theorem writeRegisters_gctl (v : Half) (s : State) : writeRegisters 0x4002 (registerBytes v) s = writeGctl v s := by
  have h2 : halfAt 0x4002 (registerBytes v) 0x4002 = some v := halfAt_of_word rfl rfl
  rw [writeRegisters, h2]
  dsimp only
  rw [writeUpperRegisters_none rfl rfl rfl rfl, ite_self]

theorem writeRegisters_ncause (v : Half) (s : State) : writeRegisters 0x4006 (registerBytes v) s = writeNcause v s := by
  have h6 : halfAt 0x4006 (registerBytes v) 0x4006 = some v := halfAt_of_word rfl rfl
  have h2 : halfAt 0x4006 (registerBytes v) 0x4002 = none := halfAt_eq_none.2 (.inl rfl)
  rw [writeRegisters, h2]
  dsimp only
  rw [writeUpperRegisters, h6]
  rfl

theorem writeRegisters_nmask (v : Half) (s : State) : writeRegisters 0x4008 (registerBytes v) s = writeNmask v s := by
  have h8 : halfAt 0x4008 (registerBytes v) 0x4008 = some v := halfAt_of_word rfl rfl
  have h2 : halfAt 0x4008 (registerBytes v) 0x4002 = none := halfAt_eq_none.2 (.inl rfl)
  rw [writeRegisters, h2]
  dsimp only
  rw [writeUpperRegisters, h8]
  rfl

/-- WARM_RESET 1 alone and RUN alone are their rows (log entry 16). -/
theorem registerRows (s : State) (v : Half) :
    let bytes (a : Byte) : List Byte := [0x40, a, v.extractLsb' 0 8, v.extractLsb' 8 8]
    exec (.spiWrite (bytes 0x00)) s = exec (.registerWrite .partid v) s ∧
    (v.getLsbD 1 = true → exec (.spiWrite (bytes 0x02)) s = exec .warmReset s) ∧
    (v.getLsbD 1 = false → v.getLsbD 0 = true → exec (.spiWrite (bytes 0x02)) s = exec .runWritten1 s) ∧
    (v.getLsbD 1 = false → v.getLsbD 0 = false → exec (.spiWrite (bytes 0x02)) s = exec .runWritten0 s) ∧
    exec (.spiWrite (bytes 0x04)) s = exec (.registerWrite .gstate v) s ∧
    exec (.spiWrite (bytes 0x06)) s = exec (.ncauseClear v) s ∧
    exec (.spiWrite (bytes 0x08)) s = exec (.nmask v) s ∧
    exec (.spiWrite (bytes 0x0A)) s = exec .nudge s := by
  intro bytes
  have row {lo : Byte} (start : Half) (hs : (0x40 : Byte) ++ lo = start) {row : Instr} {write : State → State}
      (hb : 0x4000 ≤ start.toNat ∧ start.toNat < 0xFFFF) (hrow : ∀ s, exec row s = .next (registerTransaction write s))
      (hwrite : ∀ s, writeRegisters start (registerBytes v) s = write s) :
      exec (.spiWrite (bytes lo)) s = exec row s := exec_spiWrite_register start hs hb.1 hb.2 hrow hwrite s
  refine ⟨?_, fun h1 => ?_, fun h1 h0 => ?_, fun h1 h0 => ?_, ?_, ?_, ?_, ?_⟩
  · exact row 0x4000 (by decide) (by decide) (write := fun u => u) (fun _ => rfl) (writeRegisters_partid v)
  · refine row 0x4002 (by decide) (by decide) (write := writeGctl 2) (fun _ => rfl) fun u => (writeRegisters_gctl v u).trans ?_
    rw [writeGctl, if_pos h1]
    rfl
  · refine row 0x4002 (by decide) (by decide) (write := writeGctl 1) (fun _ => rfl) fun u => (writeRegisters_gctl v u).trans ?_
    rw [writeGctl_without_warm h1, h0]
    rfl
  · refine row 0x4002 (by decide) (by decide) (write := writeGctl 0) (fun _ => rfl) fun u => (writeRegisters_gctl v u).trans ?_
    rw [writeGctl_without_warm h1, h0]
    rfl
  · exact row 0x4004 (by decide) (by decide) (write := fun u => u) (fun _ => rfl) (writeRegisters_gstate v)
  · exact row 0x4006 (by decide) (by decide) (write := writeNcause v) (fun _ => rfl) (writeRegisters_ncause v)
  · exact row 0x4008 (by decide) (by decide) (write := writeNmask v) (fun _ => rfl) (writeRegisters_nmask v)
  · exact row 0x400A (by decide) (by decide) (write := nudgeWrite) (fun _ => rfl) (writeRegisters_nudge v)

/-! ### A directive's row (log entry 2) -/

/-- A row is the transaction of its entry followed by a NUDGE. -/
theorem row_posts {s : State} (h : MapLaw s) (hr : resetHeld s = false) {row : Instr} {kind : Byte} {notify : Bool} {a : List Byte}
    (hrow : exec row s = .next (issue kind notify a s)) (hl : a.length ≤ 20) :
    let w : Half := BitVec.ofNat 16 (entryAddr s.directives.cursor)
    ∃ t, exec (.spiWrite ([w.extractLsb' 8 8, w.extractLsb' 0 8, 1, kind, if notify then 1 else 0, 0] ++ a ++
      List.replicate (20 - a.length) 0)) s = .next t ∧ exec row s = exec .nudge t := by
  intro w
  obtain ⟨hpost, hnudge⟩ := issue_is_post_and_nudge s h.1 hr kind notify a hl
  exact ⟨_, hpost, hrow.trans hnudge⟩

theorem tags_toList (tags : Vector Byte 8) :
    tags.toList = [tags[0], tags[1], tags[2], tags[3], tags[4], tags[5], tags[6], tags[7]] :=
  List.ext_getElem (by simp) fun i hi _ => by
    rw [Vector.length_toList] at hi
    interval_cases i <;> simp

/-! ### The lines (R179) -/

/-- Nothing falls due at the bytes of a transaction that sends none. -/
theorem dueAtBytes_none {got : List Byte} (h : ∀ l, atByte (got ++ l) = []) (bs : List Byte) : dueAtBytes got bs = [] := by
  induction bs generalizing got with
  | nil => rfl
  | cons b bs ih =>
    rw [dueAtBytes, h [b], ih fun l => by rw [List.append_assoc]; exact h _]
    rfl

/-- A transaction whose command is no read sends nothing at its bytes. -/
theorem dueAtBytes_of_not_read {command : Byte} (h : ∀ quad, portOperation command ≠ some (.read quad)) (rest : List Byte) :
    dueAtBytes [] (command :: rest) = [] := by
  have hdue (l : List Byte) : atByte ([command] ++ l) = [] := by
    rcases l with _ | ⟨hi, _ | ⟨lo, _ | ⟨dummy, data⟩⟩⟩
    · rfl
    · rfl
    · rfl
    · cases hp : portOperation command with
      | none => simp [atByte, hp]
      | some op => cases op with
        | write quad => simp [atByte, hp]
        | read quad => exact absurd hp (h quad)
  rw [dueAtBytes, dueAtBytes_none (got := [] ++ [command]) hdue]
  exact congrArg (· ++ []) (hdue [])

/-- An incomplete address brings nothing at all. -/
theorem atByte_short {bs : List Byte} (h : bs.length < 4) : atByte bs = [] := by
  rcases bs with _ | ⟨c, _ | ⟨hi, _ | ⟨lo, _ | ⟨dummy, data⟩⟩⟩⟩
  · rfl
  · rfl
  · rfl
  · rfl
  · simp only [List.length_cons] at h
    omega

theorem dueAtBytes_short {bs : List Byte} (h : bs.length < 3) : dueAtBytes [] bs = [] := by
  rcases bs with _ | ⟨c, _ | ⟨hi, _ | ⟨lo, rest⟩⟩⟩
  · rfl
  · rfl
  · rfl
  · simp only [List.length_cons] at h
    omega

theorem atRise_short {bs : List Byte} (h : bs.length < 3) : atRise bs = [] := by
  rcases bs with _ | ⟨c, _ | ⟨hi, _ | ⟨lo, rest⟩⟩⟩
  · rfl
  · rfl
  · rfl
  · simp only [List.length_cons] at h
    omega

/-- What a whole transaction queues. -/
theorem lineEvents_carried {s : State} (h : resetHeld s = false) {bs : List Byte} (cut : List Bool) {cs : List Instr}
    (hc : dueAtBytes [] bs ++ atRise bs = cs) :
    lineEvents (transaction bs cut) s = { s with port := { s.port with incoming := none }, pending := s.pending ++ cs } := by
  rw [lineEvents_transaction s h, hc]
  rfl

/-- A write command with a complete address is queued at the rising edge. -/
theorem lineEvents_write {s : State} (h : resetHeld s = false) {command : Byte} {quad : Bool}
    (hop : portOperation command = some (.write quad)) {rest : List Byte} (hl : 2 ≤ rest.length) (cut : List Bool) :
    lineEvents (transaction (command :: rest) cut) s =
      { s with port := { s.port with incoming := none }, pending := s.pending ++ [writeRow quad rest] } := by
  refine lineEvents_carried h cut ?_
  rw [dueAtBytes_of_not_read fun q hq => by rw [hop] at hq; cases hq]
  rcases rest with _ | ⟨hi, _ | ⟨lo, rest⟩⟩
  · simp at hl
  · simp at hl
  · simp [atRise, hop]

/-- Another command byte brings nothing. -/
theorem lineEvents_unknown {s : State} (h : resetHeld s = false) {command : Byte} (hop : portOperation command = none)
    (rest : List Byte) (cut : List Bool) : lineEvents (transaction (command :: rest) cut) s =
      { s with port := { s.port with incoming := none }, pending := s.pending ++ [] } := by
  refine lineEvents_carried h cut ?_
  rw [dueAtBytes_of_not_read fun q hq => by rw [hop] at hq; cases hq]
  rcases rest with _ | ⟨hi, _ | ⟨lo, rest⟩⟩
  · rfl
  · rfl
  · simp [atRise, hop]

/-- Outside a transaction the lines are heeded only at the falling edge. -/
theorem lineEvent_idle {s : State} (h : s.port.incoming = none) {e : LineEvent} (he : e ≠ .csFalls) : lineEvent e s = s := by
  unfold lineEvent
  split
  · rfl
  · cases e with
    | csFalls => exact absurd rfl he
    | byteEnds b => rw [h]
    | csRises cut => rw [h]

/-! ### The obligation -/

/-- Settles O58: the landing and the registers in their order, the rows, the lines. -/
theorem hostWritesLandWhereTheyMay : Obligations.HostWritesLandWhereTheyMay := by
  refine ⟨fun s hi lo data hf => ?_, fun _ _ => rfl, fun s bytes hf hl => ?_, fun s hi lo data => ?_, registerRows,
    fun s notify hm hf => ?_, fun s bytes cut hf => ⟨?_, ?_, fun hl => ?_, ?_⟩, fun s e he => lineEvent_held s e he,
    fun s e hn he => lineEvent_idle hn he, fun i s t he => incoming_of_command he⟩
  · intro written unwritten word lands
    have hd : (data.take 256).length ≤ 256 := by
      rw [List.length_take]
      exact min_le_left _ _
    obtain ⟨v, w, x, hnone, hwarm, hrun, hupper⟩ := writeRegisters_steps (start := hi ++ lo) (d := data.take 256)
      (u := writtenState (hi ++ lo) (data.take 256) s) ⟨hf, rfl⟩
    refine ⟨writtenState (hi ++ lo) (data.take 256) s, v, w, x, _, exec_spiWrite_address hf hi lo data,
      fun a b hab => ⟨fun hl => ?_, fun hl => ?_⟩, fun y hy => memRead_hostWrite_unwritten hd hy, rfl,
      fun hn => hnone (halfAt_eq_none.2 hn), fun g hg h1 => hwarm g (halfAt_of_word hg.1 hg.2) h1,
      fun g hg h1 => hrun g (halfAt_of_word hg.1 hg.2) h1, fun hall => ?_⟩
    · exact (memRead_hostWrite_written hd hab).trans (if_pos ((hostByteLands_iff _ _ _).2 hl))
    · exact (memRead_hostWrite_written hd hab).trans (if_neg (mt (hostByteLands_iff _ _ _).1 hl))
    · obtain ⟨hn6, h6, hn8, h8, hquiet, hnudge⟩ := hupper fun g hg => hall g (word_of_halfAt hg)
      exact ⟨fun hn => hn6 (halfAt_eq_none.2 hn), fun g hg => h6 g (halfAt_of_word hg.1 hg.2),
        fun hn => hn8 (halfAt_eq_none.2 hn), fun g hg => h8 g (halfAt_of_word hg.1 hg.2), hquiet, hnudge⟩
  · have hshort : writeTransaction bytes s = endReading s := by
      rcases bytes with _ | ⟨b0, _ | ⟨b1, rest⟩⟩
      · rfl
      · rfl
      · simp only [List.length_cons] at hl
        omega
    have hfree : unlessHeld (writeTransaction bytes) s = endReading s := by rw [unlessHeld_of_free hf, hshort]
    exact ⟨congrArg Host.Outcome.next hfree, congrArg Host.Outcome.next hfree⟩
  · have hf : writeTransaction (hi :: lo :: data) = writeTransaction (hi :: lo :: data.take 256) := by
      funext u
      simp only [writeTransaction, landWrite, List.take_take, min_self]
    show Host.Outcome.next (unlessHeld (writeTransaction _) s) = .next (unlessHeld (writeTransaction _) s)
    rw [hf]
  · refine ⟨fun n code m watch => row_posts hm hf rfl (by simp), fun chain tsoft floor fallback => row_posts hm hf rfl (by simp),
      fun id trip dwell recovery hold cap => row_posts hm hf rfl (by simp), fun budget => row_posts hm hf rfl (by simp),
      fun channel intercept slope => row_posts hm hf rfl (by simp), fun j => row_posts hm hf rfl (by simp),
      fun j => row_posts hm hf rfl (by simp), row_posts hm hf rfl (by simp), row_posts hm hf rfl (by simp),
      fun count tags d threshold => row_posts hm hf ?_ (by simp), row_posts hm hf rfl (by simp),
      fun chain => row_posts hm hf rfl (by simp), fun n => row_posts hm hf rfl (by simp), row_posts hm hf rfl (by simp)⟩
    show Host.Outcome.next (issue 0x0A notify ([count] ++ tags.toList ++ [d] ++ le16 threshold) s) = _
    rw [tags_toList]
    rfl
  · rintro rest rfl hl
    exact lineEvents_write (command := 0xA2) (quad := false) hf rfl hl cut
  · rintro rest rfl hl
    exact lineEvents_write (command := 0xB2) (quad := true) hf rfl hl cut
  · refine lineEvents_carried hf cut ?_
    rw [dueAtBytes_short hl, atRise_short hl]
    rfl
  · rintro command rest rfl h2 h3 h4 h5
    exact lineEvents_unknown hf (by rw [portOperation, if_neg h2, if_neg h3, if_neg h4, if_neg h5]) rest cut

end Sys2Proof.Machine
end

section
/-! Read transactions (R178, R179, R181, R184): the bytes that are sent, from which snapshots, and the lines that ask for them. -/

namespace Sys2Proof.Machine

/-! ### Serving from a held block and past it (R181) -/

/-- Serving in two stretches is serving in one. -/
theorem serveBytes_add (s : State) (m n : Nat) (t : ReadTransaction) :
    serveBytes s (m + n) t =
      ((serveBytes s n (serveBytes s m t).1).1, (serveBytes s m t).2 ++ (serveBytes s n (serveBytes s m t).1).2) := by
  induction m generalizing t with
  | zero =>
    rw [Nat.zero_add]
    rfl
  | succ m ih =>
    rw [Nat.succ_add]
    simp only [serveBytes]
    rw [ih]
    rfl

theorem ofNat_add_ofNat (a : Half) (m n : Nat) : a + BitVec.ofNat 16 m + BitVec.ofNat 16 n = a + BitVec.ofNat 16 (m + n) := by
  refine BitVec.eq_of_toNat_eq ?_
  simp only [BitVec.toNat_add, BitVec.toNat_ofNat]
  omega

/-- Up to the block's end a read sends what its snapshot holds. -/
theorem serveBytes_held (s : State) (n : Nat) (t : ReadTransaction) (hl : t.block.length = 64)
    (h0 : n = 0 ∨ t.next.toNat % 64 ≠ 0) (hn : t.next.toNat % 64 + n ≤ 64) :
    serveBytes s n t = ({ t with next := t.next + BitVec.ofNat 16 n }, (t.block.drop (t.next.toNat % 64)).take n) := by
  induction n generalizing t with
  | zero => simp [serveBytes]
  | succ n ih =>
    have hr : t.next.toNat % 64 ≠ 0 := h0.resolve_left (Nat.succ_ne_zero n)
    have hblock : (t.block.isEmpty || decide (t.next.toNat % 64 = 0)) = false := by
      rw [Bool.or_eq_false_iff, decide_eq_false_iff_not]
      exact ⟨by rw [List.isEmpty_eq_false_iff, ← List.length_pos_iff, hl]; omega, hr⟩
    have hget : t.block.getD (t.next.toNat % 64) 0 = t.block[t.next.toNat % 64]'(by omega) := List.getD_eq_getElem _ _ _
    simp only [serveBytes, hblock, Bool.false_eq_true, if_false]
    rw [hget, List.drop_eq_getElem_cons (by omega), List.take_succ_cons]
    obtain rfl | hpos := Nat.eq_zero_or_pos n
    · rfl
    · have hnext : (t.next + 1).toNat % 64 = t.next.toNat % 64 + 1 := by
        have := t.next.isLt
        rw [BitVec.toNat_add, show (1 : Half).toNat = 1 from rfl]
        omega
      have hsum : t.next + 1 + BitVec.ofNat 16 n = t.next + BitVec.ofNat 16 (n + 1) := by
        rw [Nat.add_comm n 1]
        exact ofNat_add_ofNat t.next 1 n
      rw [ih { t with next := t.next + 1 } hl (.inr (by rw [hnext]; exact Nat.succ_ne_zero _)) (by rw [hnext]; omega), hnext, hsum]

/-- The number of bytes that a read in progress sends from the block it holds. -/
def heldBytes (next : Half) (block : List Byte) : Nat :=
  if block = [] ∨ next.toNat % 64 = 0 then 0 else 64 - next.toNat % 64

theorem serveBytes_within (s : State) {t : ReadTransaction} (hb : t.block = [] ∨ t.block.length = 64) {n : Nat}
    (hn : n ≤ heldBytes t.next t.block) :
    serveBytes s n t = ({ t with next := t.next + BitVec.ofNat 16 n }, (t.block.drop (t.next.toNat % 64)).take n) := by
  unfold heldBytes at hn
  split at hn
  · obtain rfl := Nat.le_zero.1 hn
    simp [serveBytes]
  · next h =>
    rw [not_or] at h
    exact serveBytes_held s n t (hb.resolve_left h.1) (.inr h.2) (by omega)

/-- Where the held block ends, the next byte calls for a new snapshot. -/
theorem blockCurrent_after_held (s : State) (t : ReadTransaction) :
    BlockCurrent s { t with next := t.next + BitVec.ofNat 16 (heldBytes t.next t.block) } := by
  unfold heldBytes
  split
  · next h =>
    refine h.imp id fun h => .inl ?_
    show (t.next + 0#16).toNat % 64 = 0
    rw [BitVec.add_zero]
    exact h
  · refine .inr (.inl ?_)
    have := t.next.isLt
    show (t.next + BitVec.ofNat 16 (64 - t.next.toNat % 64)).toNat % 64 = 0
    rw [BitVec.toNat_add, BitVec.toNat_ofNat]
    omega

/-- What a stretch sends that goes past the block it holds. -/
theorem serveBytes_past (s : State) {t : ReadTransaction} (hb : t.block = [] ∨ t.block.length = 64) {n : Nat}
    (hn : heldBytes t.next t.block < n) :
    (serveBytes s n t).2 = (t.block.drop (t.next.toNat % 64)).take (heldBytes t.next t.block) ++
        (List.range (n - heldBytes t.next t.block)).map (fun i =>
          portByte s (t.next + BitVec.ofNat 16 (heldBytes t.next t.block + i))) ∧
      (serveBytes s n t).1 = ⟨t.quad, t.next + BitVec.ofNat 16 n, snapshot s (t.next + BitVec.ofNat 16 (n - 1))⟩ := by
  generalize hk : heldBytes t.next t.block = k at *
  obtain ⟨hsent, hquad, hnext, hblock⟩ := serveBytes_whole s (n - k) { t with next := t.next + BitVec.ofNat 16 k }
    (by rw [← hk]; exact blockCurrent_after_held s t)
  have hsplit := serveBytes_add s k (n - k) t
  rw [serveBytes_within s hb (n := k) (by rw [hk]), Nat.add_sub_cancel' (le_of_lt hn)] at hsplit
  rw [hsplit]
  refine ⟨?_, ?_⟩
  · simp only [hsent, ofNat_add_ofNat]
  · have he (r : ReadTransaction) {q : Bool} {a : Half} {b : List Byte} (h1 : r.quad = q) (h2 : r.next = a) (h3 : r.block = b) :
        r = ⟨q, a, b⟩ := by
      subst h1 h2 h3
      rfl
    refine he _ hquad (hnext.trans ?_) ((hblock (by omega)).trans ?_)
    · rw [ofNat_add_ofNat, Nat.add_sub_cancel' (le_of_lt hn)]
    · rw [ofNat_add_ofNat]
      congr 3
      omega

/-! ### The commands (R181, log entry 15) -/

/-- The row of a read by its data phase. -/
theorem exec_read {s : State} (h : resetHeld s = false) (quad : Bool) (phase : ReadPhase) :
    exec (if quad then .spiQuadRead phase else .spiRead phase) s = .next (readCommand quad phase s) := by
  cases quad with
  | true => exact congrArg Host.Outcome.next (unlessHeld_of_free h)
  | false => exact congrArg Host.Outcome.next (unlessHeld_of_free h)

/-- A read in progress served further. -/
theorem readCommand_more {s : State} {quad : Bool} {t : ReadTransaction} (h : s.port.reading = some t) (hq : t.quad = quad)
    (n : Nat) (last : Bool) : readCommand quad (.more n last) s = serveRead t n last s := by
  simp only [readCommand, h, hq, if_true]

/-- A stretch of a read that is not in progress on its lines changes nothing (log entry 4). -/
theorem readCommand_idle {s : State} {quad : Bool} (h : ∀ r, s.port.reading = some r → r.quad ≠ quad) (n : Nat) (last : Bool) :
    readCommand quad (.more n last) s = s := by
  simp only [readCommand]
  split
  · next r hr => rw [if_neg (h r hr)]
  · rfl

/-- An incomplete address sends nothing and takes no snapshot (R179). -/
theorem readCommand_incomplete {address : List Byte} (h : address.length < 2) (quad : Bool) (n : Nat) (last : Bool) (s : State) :
    readCommand quad (.start address n last) s = { s with port := { s.port with reading := none, sent := [] } } := by
  rcases address with _ | ⟨hi, _ | ⟨lo, rest⟩⟩
  · rfl
  · rfl
  · simp only [List.length_cons] at h
    omega

/-! ### The registers and the empty addresses (R184) -/

theorem portByte_memory {s : State} {a : Half} (h : a.toNat < 0x4000) : portByte s a = memRead s.xm a.toNat :=
  if_pos h

theorem registerValue_empty {s : State} {a : Half} (h : 0x400A ≤ a.toNat) : registerValue s a = 0 := by
  have hne (b : Half) (hb : b.toNat < 0x400A) : a ≠ b := fun he => by
    rw [he] at h
    omega
  rw [registerValue, if_neg (hne _ (by decide)), if_neg (hne _ (by decide)), if_neg (hne _ (by decide)),
    if_neg (hne _ (by decide)), if_neg (hne _ (by decide))]

theorem portByte_empty {s : State} {a : Half} (h : 0x400C ≤ a.toNat) : portByte s a = 0 := by
  have hsub : (a - 1).toNat = a.toNat - 1 := by
    have := a.isLt
    rw [BitVec.toNat_sub, show (1 : Half).toNat = 1 from rfl]
    omega
  rw [portByte, if_neg (by omega), registerValue_empty (by omega), registerValue_empty (by omega)]
  split <;> rfl

/-- The registers byte by byte. -/
theorem portByte_registers (s : State) : portByte s 0x4000 = 0x22 ∧ portByte s 0x4001 = 0x48 ∧
    portByte s 0x4002 = (if s.governor.run then 1 else 0) ∧ portByte s 0x4003 = 0 ∧
    portByte s 0x4004 = s.governor.state.code ||| (s.governor.reason.code <<< 4) ∧ portByte s 0x4005 = 0 ∧
    portByte s 0x4006 = s.port.ncause.setWidth 8 ∧ portByte s 0x4007 = 0 ∧
    portByte s 0x4008 = s.port.nmask.setWidth 8 ∧ portByte s 0x4009 = 0 ∧
    portByte s 0x400A = 0 ∧ portByte s 0x400B = 0 := by
  have hcauses : ∀ n : BitVec 6, (n.setWidth 16).extractLsb' 0 8 = n.setWidth 8 ∧ (n.setWidth 16).extractLsb' 8 8 = (0 : Byte) := by
    decide
  refine ⟨?_, ?_, ?_, ?_, ?_, ?_, (hcauses _).1, (hcauses _).2, (hcauses _).1, (hcauses _).2, ?_, ?_⟩
  · show partidValue.extractLsb' 0 8 = 0x22
    decide
  · show partidValue.extractLsb' 8 8 = 0x48
    decide
  · show (gctlValue s).extractLsb' 0 8 = _
    unfold gctlValue
    cases s.governor.run <;> rfl
  · show (gctlValue s).extractLsb' 8 8 = _
    unfold gctlValue
    cases s.governor.run <;> rfl
  · show (gstateValue s).extractLsb' 0 8 = _
    unfold gstateValue
    cases s.governor.state <;> cases s.governor.reason <;> rfl
  · show (gstateValue s).extractLsb' 8 8 = _
    unfold gstateValue
    cases s.governor.state <;> cases s.governor.reason <;> rfl
  · show (registerValue s 0x400A).extractLsb' 0 8 = 0
    rw [registerValue_empty (by decide)]
    rfl
  · show (registerValue s 0x400A).extractLsb' 8 8 = 0
    rw [registerValue_empty (by decide)]
    rfl

/-! ### The lines of a read (R179, log entry 30) -/

theorem dueAtBytes_more {command hi lo dummy d : Byte} {quad : Bool} (hop : portOperation command = some (.read quad))
    (got rest : List Byte) :
    dueAtBytes (command :: hi :: lo :: dummy :: d :: got) rest = List.replicate rest.length (readRow quad (.more 1 false)) := by
  induction rest generalizing got with
  | nil => rfl
  | cons b rest ih =>
    have hdue : atByte (command :: hi :: lo :: dummy :: d :: got ++ [b]) = [readRow quad (.more 1 false)] := by
      cases got <;> simp [atByte, hop]
    rw [dueAtBytes, hdue]
    exact congrArg (_ :: ·) (ih (got ++ [b]))

/-- What a read with its address and dummy byte queues: nothing before the first data byte, then a stretch for each, and the
end. -/
theorem lineEvents_read {s : State} (h : resetHeld s = false) {command : Byte} {quad : Bool}
    (hop : portOperation command = some (.read quad)) (hi lo dummy : Byte) (data : List Byte) (cut : List Bool) :
    lineEvents (transaction (command :: hi :: lo :: dummy :: data) cut) s =
      { s with port := { s.port with incoming := none }, pending := s.pending ++
        if data = [] then [] else readRow quad (.start [hi, lo] 1 false) ::
          (List.replicate (data.length - 1) (readRow quad (.more 1 false)) ++ [readRow quad (.more 0 true)]) } := by
  refine lineEvents_carried h cut ?_
  rcases data with _ | ⟨d, rest⟩
  · simp [dueAtBytes, atByte, atRise, hop]
  · have hfirst : dueAtBytes [] (command :: hi :: lo :: dummy :: d :: rest) =
        readRow quad (.start [hi, lo] 1 false) :: dueAtBytes [command, hi, lo, dummy, d] rest := by
      simp [dueAtBytes, atByte, hop]
    rw [hfirst, dueAtBytes_more hop [] rest]
    simp [atRise, hop]

end Sys2Proof.Machine
end

section
/-! What stands at the offsets of R190: the fields of a structure read back from the bytes the part writes. -/

namespace Sys2Proof.Machine

/-! ### Known bytes at an address -/

/-- The bytes `l` stand at address `a` on. -/
def BytesAt (m : Memory) (a : Nat) (l : List Byte) : Prop :=
  memBytes m a l.length = l

theorem BytesAt.byte {m : Memory} {a : Nat} {l : List Byte} (h : BytesAt m a l) {i : Nat} (hi : i < l.length) :
    memRead m (a + i) = l[i] := by
  rw [memRead_of_memBytes h i hi]
  exact List.getD_eq_getElem _ _ hi

theorem memBytes_add (m : Memory) (a p q : Nat) : memBytes m a (p + q) = memBytes m a p ++ memBytes m (a + p) q := by
  simp only [memBytes, List.range_add, List.map_append, List.map_map, Function.comp_def, Nat.add_assoc]

/-- Bytes in a row stand where each part of them stands. -/
@[simp] theorem bytesAt_append (m : Memory) (a : Nat) (l k : List Byte) :
    BytesAt m a (l ++ k) ↔ BytesAt m a l ∧ BytesAt m (a + l.length) k := by
  unfold BytesAt
  rw [List.length_append, memBytes_add]
  exact ⟨fun h => List.append_inj h (memBytes_length _ _ _), fun h => by rw [h.1, h.2]⟩

@[simp] theorem bytesAt_nil (m : Memory) (a : Nat) : BytesAt m a [] := rfl

@[simp] theorem bytesAt_cons (m : Memory) (a : Nat) (b : Byte) (l : List Byte) :
    BytesAt m a (b :: l) ↔ memRead m a = b ∧ BytesAt m (a + 1) l := by
  have hone : BytesAt m a [b] ↔ memRead m a = b := by
    show [memRead m (a + 0)] = [b] ↔ _
    rw [List.cons.injEq]
    exact and_iff_left rfl
  rw [← List.singleton_append, bytesAt_append, hone]
  rfl

theorem bytesAt_zeros {m : Memory} {a n : Nat} (h : BytesAt m a (zeros n)) {x : Nat} (hx : InRun a n x) : memRead m x = 0 := by
  obtain ⟨hlow, hhigh⟩ := hx
  have hbyte := h.byte (i := x - a) (by rw [zeros_length]; omega)
  rw [Nat.add_sub_cancel' hlow] at hbyte
  exact hbyte.trans (List.getElem_replicate _)

/-- A 16-bit field reads back (R190). -/
theorem bytesAt_le16 {m : Memory} {a : Nat} {v : Half} (h : BytesAt m a (le16 v)) : memRead16 m a = v := by
  obtain ⟨hlow, hhigh, -⟩ : memRead m a = _ ∧ memRead m (a + 1) = _ ∧ _ := by simpa only [le16, bytesAt_cons] using h
  rw [memRead16, hlow, hhigh]
  exact le16_join v

/-- A 32-bit field reads back (R190). -/
theorem bytesAt_le32 {m : Memory} {a : Nat} {v : Stamp} (h : BytesAt m a (le32 v)) : memRead32 m a = v := by
  obtain ⟨h0, h1, h2, h3, -⟩ : memRead m a = _ ∧ memRead m (a + 1) = _ ∧ memRead m (a + 2) = _ ∧ memRead m (a + 3) = _ ∧ _ := by
    simpa only [le32, bytesAt_cons] using h
  have hpair : memRead32 m a = (memRead m (a + 3) ++ memRead m (a + 2) : Half) ++ (memRead m (a + 1) ++ memRead m a : Half) := rfl
  rw [hpair, h0, h1, h2, h3]
  exact le32_join v

/-- Structures of one length in a row: each stands at its place. -/
theorem bytesAt_flatMap {α : Type} {f : α → List Byte} {k : Nat} (hf : ∀ x, (f x).length = k) {m : Memory} {a : Nat}
    {l : List α} (h : BytesAt m a (l.flatMap f)) {i : Nat} (hi : i < l.length) : BytesAt m (a + k * i) (f l[i]) := by
  induction l generalizing a i with
  | nil => exact absurd hi (Nat.not_lt_zero i)
  | cons x l ih =>
    rw [List.flatMap_cons, bytesAt_append, hf] at h
    obtain ⟨hfirst, hrest⟩ := h
    cases i with
    | zero => exact hfirst
    | succ i =>
      rw [Nat.mul_succ, Nat.add_comm (k * i), ← Nat.add_assoc]
      exact ih hrest (Nat.lt_of_succ_lt_succ hi)

/-! ### Flag bytes -/

theorem flagByte_two : ∀ x y : Bool, (flagBit x 0 ||| flagBit y 1).getLsbD 0 = x ∧ (flagBit x 0 ||| flagBit y 1).getLsbD 1 = y ∧
    (flagBit x 0 ||| flagBit y 1).toNat < 4 := by
  decide

theorem flagByte_record : ∀ x y z : Bool, ∀ i < 8, (flagBit x 0 ||| flagBit y 1 ||| flagBit z 7).getLsbD i =
    ((decide (i = 0) && x) || (decide (i = 1) && y) || (decide (i = 7) && z)) := by
  decide

theorem flagByte_ready : ∀ valid held : Bool, ∀ i < 8,
    (flagBit (valid && !held) 0 ||| flagBit valid 1 ||| flagBit held 2).getLsbD i =
      ((decide (i = 0) && valid && !held) || (decide (i = 1) && valid) || (decide (i = 2) && held)) := by
  decide

/-- The byte of the five channels' plausibility. -/
theorem implausibleBits_iff (s : State) : (∀ ch : Fin 11, ch.val < 5 →
    (implausibleBits s).getLsbD ch.val = s.sensors.readings[ch].implausible) ∧ (implausibleBits s).toNat < 32 := by
  have hbits : ∀ x0 x1 x2 x3 x4 : Bool, ∀ b : Byte,
      b = flagBit x0 0 ||| flagBit x1 1 ||| flagBit x2 2 ||| flagBit x3 3 ||| flagBit x4 4 →
      (b.getLsbD 0 = x0 ∧ b.getLsbD 1 = x1 ∧ b.getLsbD 2 = x2 ∧ b.getLsbD 3 = x3 ∧ b.getLsbD 4 = x4) ∧ b.toNat < 32 := by
    intro x0 x1 x2 x3 x4 b hb
    subst hb
    revert x0 x1 x2 x3 x4
    decide
  obtain ⟨⟨h0, h1, h2, h3, h4⟩, hlt⟩ := hbits _ _ _ _ _ (implausibleBits s) rfl
  refine ⟨fun ch hch => ?_, hlt⟩
  match ch, hch with
  | ⟨0, _⟩, _ => exact h0
  | ⟨1, _⟩, _ => exact h1
  | ⟨2, _⟩, _ => exact h2
  | ⟨3, _⟩, _ => exact h3
  | ⟨4, _⟩, _ => exact h4
  | ⟨n + 5, _⟩, h => exact absurd h (by simp)

/-! ### Outcomes, fault records and capture records -/

/-- The fields of a chain of an outcome. -/
theorem outcomeChain_fields {m : Memory} {b : Nat} {x : OutcomeChain} (h : BytesAt m b (outcomeChainBytes x)) :
    memRead m b = x.state.code ∧ memRead m (b + 1) = x.reason.code ∧ memRead16 m (b + 2) = powerField x.grant ∧
      memRead m (b + 4) = byteOf x.atten ∧ memRead m (b + 5) = x.result.code ∧ memRead16 m (b + 6) = powerField x.cth ∧
      memRead16 m (b + 8) = i16 x.tj ∧ memRead16 m (b + 10) = powerField x.clamped := by
  simp only [outcomeChainBytes, bytesAt_append, bytesAt_cons, bytesAt_nil, and_true, List.length_append, List.length_cons,
    List.length_nil, le16_length, Nat.add_assoc, Nat.reduceAdd] at h
  obtain ⟨⟨⟨⟨⟨⟨hstate, hreason⟩, hgrant⟩, hatten, hresult⟩, hcth⟩, htj⟩, hclamped⟩ := h
  exact ⟨hstate, hreason, bytesAt_le16 hgrant, hatten, hresult, bytesAt_le16 hcth, bytesAt_le16 htj, bytesAt_le16 hclamped⟩

theorem outcomeAt_of_bytes {m : Memory} {a : Nat} {o : SlotOutcome} (h : memBytes m a 64 = outcomeBytes o) : OutcomeAt m a o := by
  have hb : BytesAt m a (outcomeBytes o) := by
    unfold BytesAt
    rwa [outcomeBytes_length]
  simp only [outcomeBytes, bytesAt_append, bytesAt_cons, bytesAt_nil, and_true, List.length_append, List.length_cons,
    List.length_nil, le16_length, le32_length, outcomeChainBytes_length, Nat.add_assoc, Nat.reduceAdd] at hb
  obtain ⟨⟨⟨⟨⟨⟨⟨⟨⟨htag, hstatus, hmiss⟩, hstamp⟩, hbudget⟩, hused⟩, h0⟩, h1⟩, h2⟩, h3⟩, hzeros⟩ := hb
  refine ⟨bytesAt_le16 htag, hstatus, hmiss, bytesAt_le32 hstamp, bytesAt_le16 hbudget, bytesAt_le16 hused, fun c => ?_,
    fun i h1 h2 => bytesAt_zeros hzeros ⟨by omega, by omega⟩⟩
  refine outcomeChain_fields ?_
  rw [Nat.add_assoc]
  match c with
  | 0 => exact h0
  | 1 => exact h1
  | 2 => exact h2
  | 3 => exact h3

theorem faultAt_of_bytes {m : Memory} {a : Nat} {f : FaultRecord} (h : memBytes m a 64 = faultBytes f) : FaultAt m a f := by
  have hb : BytesAt m a (faultBytes f) := by
    unfold BytesAt
    rwa [faultBytes_length]
  simp only [faultBytes, bytesAt_append, bytesAt_cons, bytesAt_nil, and_true, List.length_append, List.length_cons,
    List.length_nil, le16_length, le32_length, Nat.add_assoc, Nat.reduceAdd] at hb
  obtain ⟨⟨⟨⟨⟨⟨⟨⟨⟨⟨⟨hflags, hid⟩, hslot⟩, hstamp⟩, hrise⟩, htj⟩, htm⟩, hdetector⟩, hstate, hreason⟩, hgrant⟩, hknown, hword, hcount⟩,
    hzeros⟩ := hb
  obtain ⟨hpresent, hreleased, hlt⟩ := flagByte_two f.present f.released
  rw [← hflags] at hpresent hreleased hlt
  refine ⟨hpresent, hreleased, hlt, hid, bytesAt_le16 hslot, bytesAt_le32 hstamp, bytesAt_le16 hrise, bytesAt_le16 htj,
    bytesAt_le16 htm, bytesAt_le16 hdetector, hstate, hreason, bytesAt_le16 hgrant, ?_, hword, hcount,
    fun i h1 h2 => bytesAt_zeros hzeros ⟨by omega, by omega⟩⟩
  rw [hknown]
  cases f.ackKnown <;> rfl

theorem recordAt_of_bytes {m : Memory} {a : Nat} {r : CaptureRecord} (h : memBytes m a 8 = captureBytes r) : RecordAt m a r := by
  have hb : BytesAt m a (captureBytes r) := h
  simp only [captureBytes, bytesAt_append, bytesAt_cons, bytesAt_nil, and_true, List.length_append, List.length_cons,
    List.length_nil, le32_length, Nat.add_assoc, Nat.reduceAdd] at hb
  obtain ⟨⟨hstamp, htag, hflags⟩, hvalue⟩ := hb
  refine ⟨bytesAt_le32 hstamp, htag, ?_, bytesAt_le16 hvalue⟩
  rw [hflags]
  exact flagByte_record r.implausible r.held r.gap

/-! ### The status board -/

/-- The fields of a channel of the board. -/
theorem reading_fields {m : Memory} {a : Nat} {r : Reading} (h : BytesAt m a (readingBytes r)) :
    memRead16 m a = r.raw.setWidth 16 ∧ memRead16 m (a + 2) = u16 r.corrected ∧ memRead16 m (a + 4) = i16 r.value := by
  simp only [readingBytes, bytesAt_append, List.length_append, le16_length, Nat.reduceAdd] at h
  obtain ⟨⟨hraw, hcorrected⟩, hvalue⟩ := h
  exact ⟨bytesAt_le16 hraw, bytesAt_le16 hcorrected, bytesAt_le16 hvalue⟩

/-- The fields of a chain of the board. -/
theorem boardChain_fields {m : Memory} {a : Nat} {s : State} {c : Chain} (h : BytesAt m a (boardChainBytes s c)) :
    memRead16 m a = u16 (s.thermal.chains.get c).rise ∧ memRead16 m (a + 2) = i16 (s.thermal.chains.get c).tj ∧
      memRead16 m (a + 4) = i16 (s.thermal.chains.get c).tm ∧ memRead16 m (a + 6) = u16 (s.thermal.chains.get c).power ∧
      memRead16 m (a + 8) = powerField (s.slot.lastCeiling.get c) ∧
      memRead16 m (a + 10) = powerField (s.slot.inForce.get c).force.grant ∧
      memRead m (a + 12) = (s.slot.inForce.get c).force.state.code ∧ memRead m (a + 13) = (s.slot.inForce.get c).reason.code ∧
      (memRead m (a + 14)).getLsbD 0 = (s.thermal.chains.get c).substituted ∧
      (memRead m (a + 14)).getLsbD 1 = (s.drive.chains.get c).cut ∧ (memRead m (a + 14)).toNat < 4 ∧ memRead m (a + 15) = 0 := by
  simp only [boardChainBytes, bytesAt_append, bytesAt_cons, bytesAt_nil, and_true, List.length_append, le16_length,
    Nat.add_assoc, Nat.reduceAdd] at h
  obtain ⟨⟨⟨⟨⟨⟨hrise, htj⟩, htm⟩, hpower⟩, hceiling⟩, hgrant⟩, hstate, hreason, hflags, hzero⟩ := h
  obtain ⟨hsub, hcut, hlt⟩ := flagByte_two (s.thermal.chains.get c).substituted (s.drive.chains.get c).cut
  rw [← hflags] at hsub hcut hlt
  exact ⟨bytesAt_le16 hrise, bytesAt_le16 htj, bytesAt_le16 htm, bytesAt_le16 hpower, bytesAt_le16 hceiling,
    bytesAt_le16 hgrant, hstate, hreason, hsub, hcut, hlt, hzero⟩

theorem readings_length (s : State) : (s.sensors.readings.toList.flatMap readingBytes).length = 66 := by
  simp [List.length_flatMap, List.map_const']

theorem entryCodes_length (s : State) : (s.supervisor.entries.toList.map fun e => e.state.code).length = 19 := by
  simp

theorem boardAt_of_bytes {m : Memory} {s : State} (h : memBytes m 0x0040 448 = boardBytes s) : BoardAt m s := by
  have hb : BytesAt m 0x0040 (boardBytes s) := by
    unfold BytesAt
    rwa [boardBytes_length]
  simp only [boardBytes, bytesAt_append, bytesAt_cons, bytesAt_nil, and_true, List.length_append, List.length_cons,
    List.length_nil, le16_length, le32_length, zeros_length, boardChainBytes_length, readings_length, entryCodes_length,
    Nat.reduceAdd] at hb
  obtain ⟨⟨⟨⟨⟨⟨⟨⟨⟨⟨⟨⟨⟨⟨hstate, hreason, hready, hon⟩, hsteps⟩, hn⟩, hbudget⟩, himpl, hz1, hz2, hz3⟩, hreadings⟩, hzeros⟩,
    hc0⟩, hc1⟩, hc2⟩, hc3⟩, hentries⟩, hfar⟩, hlast⟩ := hb
  obtain ⟨hbits, hbitsLt⟩ := implausibleBits_iff s
  rw [← himpl] at hbits hbitsLt
  refine ⟨hstate, hreason, ?_, ?_, bytesAt_le32 hsteps, bytesAt_le16 hn, bytesAt_le16 hbudget, hbits, hbitsLt, fun ch => ?_,
    fun c => ?_, fun id => ?_, ?_, bytesAt_le32 hlast⟩
  · rw [hready]
    exact flagByte_ready s.sensors.valid s.sensors.held
  · rw [hon]
    cases s.capture.on <;> rfl
  · exact reading_fields (bytesAt_flatMap readingBytes_length hreadings (i := ch.val) (by simp))
  · refine boardChain_fields ?_
    match c with
    | 0 => exact hc0
    | 1 => exact hc1
    | 2 => exact hc2
    | 3 => exact hc3
  · refine (hentries.byte (i := id.val) (by simp)).trans ?_
    rw [List.getElem_map]
    rfl
  · intro x hx
    rcases hx with ⟨h1, h2⟩ | hx | hx
    · obtain rfl | rfl | rfl : x = 0x4D ∨ x = 0x4E ∨ x = 0x4F := by omega
      · exact hz1
      · exact hz2
      · exact hz3
    · exact bytesAt_zeros hzeros hx
    · exact bytesAt_zeros hfar hx

end Sys2Proof.Machine
end

section
/-! Reads and the status board (R178, R181, R184, R189, R190). -/

namespace Sys2Proof.Machine

/-! ### Reads in stretches (R181, log entry 15) -/

/-- A read that starts sends the bytes as they stand. -/
theorem exec_readStart {s : State} (h : resetHeld s = false) (quad : Bool) (hi lo : Byte) (n : Nat) (last : Bool) :
    let start : Half := hi ++ lo
    ∃ t, exec (if quad then .spiQuadRead (.start [hi, lo] n last) else .spiRead (.start [hi, lo] n last)) s = .next t ∧
      t.port.sent = (List.range n).map (fun i => portByte s (start + BitVec.ofNat 16 i)) ∧
      (last = true → t.port.reading = none) ∧
      (last = false → ∃ block, t.port.reading = some ⟨quad, start + BitVec.ofNat 16 n, block⟩ ∧
        (0 < n → block = snapshot s (start + BitVec.ofNat 16 (n - 1)))) ∧
      t = { s with port := { s.port with reading := t.port.reading, sent := t.port.sent } } := by
  intro start
  obtain ⟨hsent, hquad, hnext, hblock⟩ := serveBytes_whole s n ⟨quad, start, []⟩ (.inl rfl)
  refine ⟨serveRead ⟨quad, start, []⟩ n last s, exec_read h quad _, hsent, fun hl => ?_, fun hl => ?_, rfl⟩
  · subst hl
    rfl
  · subst hl
    exact ⟨(serveBytes s n ⟨quad, start, []⟩).1.block,
      congrArg₂ (fun q a => some (⟨q, a, (serveBytes s n ⟨quad, start, []⟩).1.block⟩ : ReadTransaction)) hquad hnext, hblock⟩

/-- A read that goes on sends from the snapshot it holds, and takes a new one where that ends. -/
theorem exec_readMore {s : State} (h : resetHeld s = false) {quad : Bool} {next : Half} {block : List Byte}
    (hr : s.port.reading = some ⟨quad, next, block⟩) (hb : block = [] ∨ block.length = 64) (n : Nat) (last : Bool) :
    ∃ t, exec (if quad then .spiQuadRead (.more n last) else .spiRead (.more n last)) s = .next t ∧
      (n ≤ heldBytes next block → t.port.sent = (block.drop (next.toNat % 64)).take n) ∧
      (heldBytes next block < n → t.port.sent = (block.drop (next.toNat % 64)).take (heldBytes next block) ++
        (List.range (n - heldBytes next block)).map fun i => portByte s (next + BitVec.ofNat 16 (heldBytes next block + i))) ∧
      (last = true → t.port.reading = none) ∧
      (last = false → ∃ held, t.port.reading = some ⟨quad, next + BitVec.ofNat 16 n, held⟩ ∧
        (n ≤ heldBytes next block → held = block) ∧
        (heldBytes next block < n → held = snapshot s (next + BitVec.ofNat 16 (n - 1)))) ∧
      t = { s with port := { s.port with reading := t.port.reading, sent := t.port.sent } } := by
  refine ⟨serveRead ⟨quad, next, block⟩ n last s, (exec_read h quad _).trans (congrArg _ (readCommand_more hr rfl n last)),
    fun hn => ?_, fun hn => (serveBytes_past s hb hn).1, fun hl => ?_, fun hl => ?_, rfl⟩
  · exact congrArg Prod.snd (serveBytes_within s hb hn)
  · subst hl
    rfl
  · subst hl
    rcases Nat.lt_or_ge (heldBytes next block) n with hn | hn
    · exact ⟨_, congrArg some (serveBytes_past s hb hn).2, fun hle => absurd hle (Nat.not_le_of_lt hn), fun _ => rfl⟩
    · exact ⟨block, congrArg (some ∘ Prod.fst) (serveBytes_within s (t := ⟨quad, next, block⟩) hb hn), fun _ => rfl,
        fun hlt => absurd hlt (Nat.not_lt_of_le hn)⟩

/-- A further stretch of a read that is not in progress on its lines changes nothing (log entry 4). -/
theorem exec_readMore_idle (s : State) (n : Nat) (last : Bool) :
    ((∀ r, s.port.reading = some r → r.quad = true) → exec (.spiRead (.more n last)) s = .next s) ∧
      ((∀ r, s.port.reading = some r → r.quad = false) → exec (.spiQuadRead (.more n last)) s = .next s) := by
  have hsame (quad : Bool) (h : ∀ r, s.port.reading = some r → r.quad ≠ quad) :
      unlessHeld (readCommand quad (.more n last)) s = s := by
    unfold unlessHeld
    rw [readCommand_idle h, ite_self]
  exact ⟨fun h => congrArg Host.Outcome.next (hsame false fun r hr => by rw [h r hr]; decide),
    fun h => congrArg Host.Outcome.next (hsame true fun r hr => by rw [h r hr]; decide)⟩

/-! ### The status board published (R189) -/

theorem exec_statusBoardPublication {s : State} (h : resetHeld s = false) :
    ∃ t, exec .statusBoardPublication s = .next t ∧ memBytes t.xm 0x0040 448 = boardBytes s ∧
      MemoryKept (InRun 0x0040 448) s t ∧ t = { s with xm := t.xm } := by
  refine ⟨publishBoard s, congrArg Host.Outcome.next (unlessHeld_of_free h), ?_, fun x hx => ?_, rfl⟩
  · have hbytes := memBytes_memStore s.xm 0x0040 (boardBytes s)
    rwa [boardBytes_length] at hbytes
  · refine memRead_memStore_of_outside ?_
    rw [boardBytes_length]
    unfold InRun at hx
    omega

/-! ### Codes (R190) -/

theorem i16_toInt {x : Int} (hlow : -32768 ≤ x) (hhigh : x < 32768) : (i16 x).toInt = x := by
  rw [i16, BitVec.toInt_ofInt]
  exact Int.bmod_eq_of_le (by omega) (by omega)

theorem driveWord_code_toNat (e : Bool) {n : Nat} (h : n < 128) :
    (DriveWord.code ⟨e, n⟩).toNat = (if e then 128 else 0) + n := by
  have hall : ∀ e : Bool, ∀ k : Fin 128, (DriveWord.code ⟨e, k.val⟩).toNat = (if e then 128 else 0) + k.val := by
    decide
  exact hall e ⟨n, h⟩

/-- Settles O59: a read is served from the snapshots of its blocks, registers and exchange memory read as they stand, and each
structure the part writes reads back at its offsets. -/
theorem readsAndTheStatusBoard : Obligations.ReadsAndTheStatusBoard := by
  refine ⟨fun s quad hi lo n last h => exec_readStart h quad hi lo n last,
    fun s quad next block n last h hr hb => exec_readMore h hr hb n last, exec_readMore_idle,
    fun s address n last h ha => ⟨?_, ?_⟩, fun s hi lo dummy data cut h => ⟨fun hd => ?_, fun hd => ?_⟩,
    fun s a => ⟨portByte_memory, portByte_empty⟩, portByte_registers, fun s h => exec_statusBoardPublication h,
    fun _ _ _ => ⟨rfl, rfl⟩, fun _ => ⟨rfl, rfl⟩, fun _ => rfl, fun _ => rfl, fun _ => rfl,
    fun n hn => ?_, fun _ => i16_toInt, fun _ => rfl,
    fun m a => ⟨fun _ => outcomeAt_of_bytes, fun _ => faultAt_of_bytes, fun _ => recordAt_of_bytes, fun _ => boardAt_of_bytes⟩,
    rfl, rfl, rfl, rfl, rfl, rfl, rfl, rfl, rfl, fun e _ => driveWord_code_toNat e⟩
  · exact (exec_read h false _).trans (congrArg _ (readCommand_incomplete ha false n last s))
  · exact (exec_read h true _).trans (congrArg _ (readCommand_incomplete ha true n last s))
  · subst hd
    exact ⟨lineEvents_read h (quad := false) rfl hi lo dummy [] cut, lineEvents_read h (quad := true) rfl hi lo dummy [] cut⟩
  · have hsingle := lineEvents_read h (command := 0xA3) (quad := false) rfl hi lo dummy data cut
    have hquad := lineEvents_read h (command := 0xB3) (quad := true) rfl hi lo dummy data cut
    rw [if_neg hd] at hsingle hquad
    exact ⟨hsingle, hquad⟩
  · rw [u16, BitVec.toNat_ofNat]
    exact Nat.mod_eq_of_lt hn

end Sys2Proof.Machine
end
